-- ==== Sys2Proof/Word.lean ====
section
/-! DEFINITION. The plain widths of the spec: bytes, event and result words, index fields, line levels. -/

namespace Sys2Proof

/-- An element of a buffer: one 8-bit byte (20_memory.md R60). -/
abbrev Byte := BitVec 8

/-- An event word (30_encoding.md R84) or the value a read returns (10_state.md R43): 32 bits. -/
abbrev Word := BitVec 32

/-- The 12-bit IDX field of an event word: an index, a register number or a length (30_encoding.md R84). -/
abbrev Idx := BitVec 12

/-- The level of a line, 1 bit: `true` is 1, high (10_state.md R26, R28, R40). -/
abbrev Level := Bool

end Sys2Proof
end

