-- ==== Sys2Proof/Config.lean ====
section
/-! DEFINITION. The implementation parameters of 00_scope.md R10 to R15.
TICK_W is 32 for this hardware (R10, log 2). RX_CAP, TX_MAX, LOOPBACK and CTRL_MAP are OPEN: an instance carries
them as data (`Params`), and a claim over all states is a claim over all their values (log 1). -/

namespace Sys2Proof

/-- TICK_W, the width of the tick counter and of every tick-valued or counting receiver field (00_scope.md R10). -/
abbrev tickW : Nat := 32

/-- A value of the tick counter, or of a field that holds or counts ticks (00_scope.md R10). -/
abbrev Tick := BitVec tickW

/-- The operations a control-line edge may perform (00_scope.md R14, 42_host_and_control.md R182). -/
inductive CtrlOp where
  | txStart
  | txStop
  | rxInit
  deriving DecidableEq, Repr

/-- The OPEN parameters of one instance (00_scope.md R11 to R14). -/
structure Params where
  /-- RX_CAP, the capacity in bytes of the receive buffer; legal values 1 to 4095 (R11). -/
  rxCap : Idx
  /-- TX_MAX, the capacity in bytes of STAGE and PAYLOAD; legal values 1 to 4095 (R12). -/
  txMax : Idx
  /-- LOOPBACK: the receiver samples this instance's own `txOut` (R13). -/
  loopback : Bool
  /-- CTRL_MAP, rising edge: the operations performed, in order (R14). -/
  onRise : List CtrlOp
  /-- CTRL_MAP, falling edge: the operations performed, in order (R14, log 14). -/
  onFall : List CtrlOp
  deriving DecidableEq, Repr

/-- The legal parameter values: both capacities in 1 to 4095 (00_scope.md R11, R12). A 12-bit value is at most 4095. -/
abbrev Params.Legal (p : Params) : Prop := 1 ≤ p.rxCap.toNat ∧ 1 ≤ p.txMax.toNat

/-- The default CTRL_MAP for a rising edge: TX_START then RX_INIT (00_scope.md R14). -/
def defaultOnRise : List CtrlOp := [.txStart, .rxInit]

/-- The default CTRL_MAP for a falling edge: TX_STOP (00_scope.md R14). -/
def defaultOnFall : List CtrlOp := [.txStop]

/-- The parameters of the instance that `State.reset` describes.
DESIGN CHOICE (log 1), unsafe: R11 to R14 leave them OPEN; these are the values of the spec's program P1 (95_test_vectors.md). -/
def Params.chosen : Params :=
  { rxCap := 4, txMax := 2, loopback := true, onRise := defaultOnRise, onFall := defaultOnFall }

/-- The frame-start sentinel FRAME_START, `0x0F` (30_encoding.md R82). -/
def frameStart : Byte := 0x0F

/-- The frame-end sentinel FRAME_END, `0x00` (30_encoding.md R82). -/
def frameEnd : Byte := 0x00

/-- The preload of the frame register at the ClockSync exit, `0xFF` (00_scope.md R15, 41_receiver.md R146). -/
def framePreload : Byte := 0xFF

end Sys2Proof
end

