-- ==== Sys2Proof/Syntax.lean ====
section
/-! DEFINITION. The events of the link engine: one constructor per row of spec/opcode_table.json (30_encoding.md R85),
and the names of the refusals (60_exceptions.md R211). -/

namespace Sys2Proof

/-- An event with its operands (30_encoding.md R85). -/
inductive Instr where
  /-- TICK L: one timer tick with the input line's level (42_host_and_control.md R180). -/
  | tick (l : Level)
  /-- TX_START: start or restart a transmit session from the staged bytes (40_transmitter.md R117). -/
  | txStart
  /-- TX_STOP: idle the transmitter and drive the line low (40_transmitter.md R118). -/
  | txStop
  /-- RX_INIT: put the receiver back to Waiting (41_receiver.md R152). -/
  | rxInit
  /-- CTRL_RISE: a rising edge of the control line (42_host_and_control.md R182). -/
  | ctrlRise
  /-- CTRL_FALL: a falling edge of the control line (42_host_and_control.md R183). -/
  | ctrlFall
  /-- WR_STAGE idx, data: write one staged byte (42_host_and_control.md R184). -/
  | wrStage (idx : Idx) (data : Byte)
  /-- WR_STAGE_LEN len: set the staged length (42_host_and_control.md R185). -/
  | wrStageLen (len : Idx)
  /-- RD_REG reg: read a register by number (42_host_and_control.md R186). -/
  | rdReg (reg : Idx)
  /-- RD_RXBUF idx: read one byte of the receive buffer (42_host_and_control.md R187). -/
  | rdRxbuf (idx : Idx)
  /-- RD_STAGE idx: read one staged byte back (42_host_and_control.md R188). -/
  | rdStage (idx : Idx)
  /-- SYS_RESET: system reset (70_reset_and_hazards.md R240). -/
  | sysReset
  deriving DecidableEq, Repr

/-- The refusals of 60_exceptions.md R211, in the order in which they are checked. -/
inductive RefCode where
  /-- REF_RESERVED_OP: OP 0xC to 0xF (30_encoding.md R87). -/
  | reservedOp
  /-- REF_RESERVED_BITS: a 1 in a reserved bit (R88). -/
  | reservedBits
  /-- REF_INDEX: an index outside its space (R89). -/
  | index
  /-- REF_LEN: a staged length above TX_MAX (R89). -/
  | len
  /-- REF_REGNO: a register number of 0x00D or above (R89, 10_state.md R47). -/
  | regno
  deriving DecidableEq, Repr

end Sys2Proof
end

