-- ==== Sys2Proof/Decode.lean ====
section
/-! DEFINITION. The event word of 30_encoding.md R84 to R90: a total decoder that refuses by name, and an encoder.
The decoder checks OP (R87), then the reserved bits (R88); the operand values (R89) depend on the instance's
parameters and are checked where the event takes effect, as 42_host_and_control.md R184 to R188 write it (log 17). -/

namespace Sys2Proof

/-- The four formats of an event word (30_encoding.md R84). -/
inductive Format where
  /-- N: no operand. -/
  | n
  /-- T: a tick with its level. -/
  | t
  /-- I: an index. -/
  | i
  /-- ID: an index and a data byte. -/
  | id
  deriving DecidableEq, Repr

/-- What a word decodes to: exactly one event, or a refusal by name (30_encoding.md R90). -/
inductive Decoded where
  | event (i : Instr)
  | refused (code : RefCode)
  deriving DecidableEq, Repr

/-- OP = w[31:28] (30_encoding.md R84). -/
def opField (w : Word) : BitVec 4 := w.extractLsb' 28 4

/-- IDX = w[27:16] (30_encoding.md R84). -/
def idxField (w : Word) : Idx := w.extractLsb' 16 12

/-- DATA = w[7:0] (30_encoding.md R84). -/
def dataField (w : Word) : Byte := w.extractLsb' 0 8

/-- L = w[0] (30_encoding.md R84). -/
def levelField (w : Word) : Level := w.getLsbD 0

/-- The bits a format marks 0 (30_encoding.md R88): 27:1 for T, 27:0 for N, 15:0 for I, 15:8 for ID. -/
def Format.reservedMask : Format → Word
  | .t => 0x0FFFFFFE
  | .n => 0x0FFFFFFF
  | .i => 0x0000FFFF
  | .id => 0x0000FF00

/-- The format OP selects; `none` for the reserved values 0xC to 0xF (30_encoding.md R85, R87). -/
def formatOf (op : BitVec 4) : Option Format :=
  match op.toNat with
  | 0x0 => some .t
  | 0x1 => some .n
  | 0x2 => some .n
  | 0x3 => some .n
  | 0x4 => some .n
  | 0x5 => some .n
  | 0x6 => some .id
  | 0x7 => some .i
  | 0x8 => some .i
  | 0x9 => some .i
  | 0xA => some .i
  | 0xB => some .n
  | _ => none

/-- The event OP selects, its operands taken from the fields of `w` (30_encoding.md R85). -/
def eventOf (op : BitVec 4) (w : Word) : Option Instr :=
  match op.toNat with
  | 0x0 => some (.tick (levelField w))
  | 0x1 => some .txStart
  | 0x2 => some .txStop
  | 0x3 => some .rxInit
  | 0x4 => some .ctrlRise
  | 0x5 => some .ctrlFall
  | 0x6 => some (.wrStage (idxField w) (dataField w))
  | 0x7 => some (.wrStageLen (idxField w))
  | 0x8 => some (.rdReg (idxField w))
  | 0x9 => some (.rdRxbuf (idxField w))
  | 0xA => some (.rdStage (idxField w))
  | 0xB => some .sysReset
  | _ => none

/-- The decoder, total on every word (30_encoding.md R86 to R88, R90). -/
def decode (w : Word) : Decoded :=
  match formatOf (opField w), eventOf (opField w) w with
  | some f, some i => if w &&& f.reservedMask = 0 then .event i else .refused .reservedBits
  | _, _ => .refused .reservedOp

/-- The OP value of an event (30_encoding.md R85). -/
def Instr.opcode : Instr → BitVec 4
  | .tick _ => 0x0
  | .txStart => 0x1
  | .txStop => 0x2
  | .rxInit => 0x3
  | .ctrlRise => 0x4
  | .ctrlFall => 0x5
  | .wrStage _ _ => 0x6
  | .wrStageLen _ => 0x7
  | .rdReg _ => 0x8
  | .rdRxbuf _ => 0x9
  | .rdStage _ => 0xA
  | .sysReset => 0xB

/-- An event word from its fields OP, IDX, bits 15:8 zero, and bits 7:0 (30_encoding.md R84). -/
def packFields (op : BitVec 4) (idx : Idx) (low : Byte) : Word := op ++ idx ++ 0#8 ++ low

/-- The encoder (30_encoding.md R84, R85). -/
def encode (i : Instr) : Word :=
  match i with
  | .tick l => packFields i.opcode 0 (if l then 1 else 0)
  | .txStart => packFields i.opcode 0 0
  | .txStop => packFields i.opcode 0 0
  | .rxInit => packFields i.opcode 0 0
  | .ctrlRise => packFields i.opcode 0 0
  | .ctrlFall => packFields i.opcode 0 0
  | .wrStage idx data => packFields i.opcode idx data
  | .wrStageLen n => packFields i.opcode n 0
  | .rdReg reg => packFields i.opcode reg 0
  | .rdRxbuf idx => packFields i.opcode idx 0
  | .rdStage idx => packFields i.opcode idx 0
  | .sysReset => packFields i.opcode 0 0

/-- One row of spec/opcode_table.json: the words `w` with `w & mask = value` are the row's. -/
structure OpcodeRow where
  mnemonic : String
  value : Word
  mask : Word
  deriving DecidableEq, Repr

/-- The rows of spec/opcode_table.json, match and mask as the file gives them (30_encoding.md R85, R90). -/
def opcodeTable : List OpcodeRow :=
  [⟨"TICK", 0x00000000, 0xFFFFFFFE⟩,
   ⟨"TX_START", 0x10000000, 0xFFFFFFFF⟩,
   ⟨"TX_STOP", 0x20000000, 0xFFFFFFFF⟩,
   ⟨"RX_INIT", 0x30000000, 0xFFFFFFFF⟩,
   ⟨"CTRL_RISE", 0x40000000, 0xFFFFFFFF⟩,
   ⟨"CTRL_FALL", 0x50000000, 0xFFFFFFFF⟩] ++
  [⟨"WR_STAGE", 0x60000000, 0xF000FF00⟩,
   ⟨"WR_STAGE_LEN", 0x70000000, 0xF000FFFF⟩,
   ⟨"RD_REG", 0x80000000, 0xF000FFFF⟩,
   ⟨"RD_RXBUF", 0x90000000, 0xF000FFFF⟩,
   ⟨"RD_STAGE", 0xA0000000, 0xF000FFFF⟩,
   ⟨"SYS_RESET", 0xB0000000, 0xFFFFFFFF⟩]

/-- A row matches a word (30_encoding.md R90). -/
def OpcodeRow.Matches (r : OpcodeRow) (w : Word) : Prop := w &&& r.mask = r.value

/-- The mnemonic of an event (30_encoding.md R85). -/
def Instr.mnemonic : Instr → String
  | .tick _ => "TICK"
  | .txStart => "TX_START"
  | .txStop => "TX_STOP"
  | .rxInit => "RX_INIT"
  | .ctrlRise => "CTRL_RISE"
  | .ctrlFall => "CTRL_FALL"
  | .wrStage _ _ => "WR_STAGE"
  | .wrStageLen _ => "WR_STAGE_LEN"
  | .rdReg _ => "RD_REG"
  | .rdRxbuf _ => "RD_RXBUF"
  | .rdStage _ => "RD_STAGE"
  | .sysReset => "SYS_RESET"

/-- The event the decoder reads from a row's word of `nbits` bits, bit 0 the least significant; an event word
is one 32-bit value, so the bits of `w` are its bits and a longer number spells no event (30_encoding.md R86). -/
def decodeTableWord (nbits w : Nat) : Option Instr :=
  if w % 2 ^ nbits < 2 ^ 32 then
    match decode (BitVec.ofNat 32 (w % 2 ^ nbits)) with
    | .event i => some i
    | .refused _ => none
  else none

end Sys2Proof
end

