-- ==== Sys2Proof/Machine/State.lean ====
section
/-! DEFINITION. The state of one instance (10_state.md R20 to R39, R52), the reasons a step can stop, and the state
after SYS_RESET, which is also the power-on state (70_reset_and_hazards.md R240, R241). -/

namespace Sys2Proof.Machine

/-- No event of this hardware faults (00_scope.md R19, 60_exceptions.md R210): there is no fault to raise. -/
inductive Fault where
  deriving DecidableEq, Repr

/-- Why an event has no meaning. -/
inductive Refusal where
  /-- Raised by `exec` for an instruction that has no meaning in this model; no arm raises it. Safe. -/
  | notModelled (mnemonic : String)
  /-- Raised by WR_STAGE, WR_STAGE_LEN, RD_REG, RD_RXBUF and RD_STAGE on an operand outside the contract (00_scope.md R19,
  60_exceptions.md R211). Safe: the spec gives the event no meaning; `step` records it as the refusal mark (log 5). -/
  | outsideContract (code : RefCode)
  deriving DecidableEq, Repr

/-- An index space of 20_memory.md R60, sparse: cells with strictly rising index, no cell holding `0x00`; an index
not listed reads `0x00`, the reset contents of 10_state.md R24, R25 and R37 (log 8, log 10). -/
abbrev Mem := List Host.Cell

/-- The transmitter phases (10_state.md R22). -/
inductive TxPhase where
  | idle
  | preamble
  | sync
  | data
  | done
  deriving DecidableEq, Repr

/-- The receiver states (10_state.md R27). -/
inductive RxState where
  | waiting
  | clockSync
  | awaitFrame
  | receiving
  | complete
  deriving DecidableEq, Repr

/-- The transmitter state (10_state.md R22 to R26). -/
structure Tx where
  /-- R22. -/
  txPhase : TxPhase
  /-- The tick position within the phase (R23). -/
  bitPosition : BitVec 16
  /-- The session copy of the bytes, space PAYLOAD (R24). -/
  payload : Mem
  /-- The session length (R24). -/
  payloadLen : Idx
  /-- The host-writable staging buffer, space STAGE (R25). -/
  stage : Mem
  /-- The staged length (R25). -/
  stageLen : Idx
  /-- The output line's level (R26). -/
  txOut : Level
  deriving DecidableEq, Repr

/-- The receiver state (10_state.md R27 to R39). -/
structure Rx where
  /-- R27. -/
  rxState : RxState
  /-- The last level the transition detector sampled (R28). -/
  lastBit : Level
  /-- The sum of the observed intervals (R29). -/
  pulseTimeTotal : Tick
  /-- The number of intervals folded in (R30). -/
  numPulses : Tick
  /-- The bit-period estimate (R31). -/
  avgPulseTime : Tick
  /-- The tick of the last observed transition (R32). -/
  systimePrevPulse : Tick
  /-- The projected tick of the next transition (R33). -/
  systimeNextPulse : Tick
  /-- The next sample instant (R34). -/
  systimeNextSample : Tick
  /-- The frame synchroniser's shift accumulator (R35). -/
  frameShiftRegister : Byte
  /-- The number of AwaitFrame samples, saturating at 8 (R36). -/
  frameBitPos : BitVec 4
  /-- The receive buffer, space RXBUF (R37). -/
  bitBuffer : Mem
  /-- The write cursor's byte index, the number of bytes recorded (R38). -/
  bitBufferPos : Idx
  /-- The write cursor's bit index (R39). -/
  bitBufferBit : BitVec 3
  deriving DecidableEq, Repr

/-- The whole state of one instance (10_state.md R20), with what the model keeps beside it. -/
structure State where
  /-- The instance's parameters, read as CONFIG; no event changes them (10_state.md R46, log 1). -/
  params : Params
  /-- The tick counter (R21). -/
  now : Tick
  /-- The transmitter (R22 to R26). -/
  tx : Tx
  /-- The receiver (R27 to R39). -/
  rx : Rx
  /-- The refusal mark with its code: no event reads it and none clears it (R52, log 5). -/
  refusalMark : Option RefCode
  /-- The value the last event taken returned, `none` where it returned none (00_scope.md R18, R19; log 4). -/
  output : Option Word
  /-- The event words that have arrived and wait, first to be taken first (20_memory.md R71, R73; log 3). -/
  events : List Word
  deriving DecidableEq, Repr

/-- The transmitter after SYS_RESET (70_reset_and_hazards.md R240). -/
def Tx.reset : Tx :=
  { txPhase := .idle, bitPosition := 0, payload := [], payloadLen := 0, stage := [], stageLen := 0, txOut := false }

/-- The receiver after RX_INIT or SYS_RESET (41_receiver.md R152). -/
def Rx.reset : Rx :=
  { rxState := .waiting, lastBit := false, pulseTimeTotal := 0, numPulses := 0, avgPulseTime := 0,
    systimePrevPulse := 0, systimeNextPulse := 0, systimeNextSample := 0, frameShiftRegister := 0x00,
    frameBitPos := 0, bitBuffer := [], bitBufferPos := 0, bitBufferBit := 0 }

/-- The power-on state of an instance with parameters `p`: the state SYS_RESET produces (70_reset_and_hazards.md R241),
no event waiting, nothing returned, nothing refused. -/
def State.resetWith (p : Params) : State :=
  { params := p, now := 0, tx := Tx.reset, rx := Rx.reset, refusalMark := none, output := none, events := [] }

/-- The machine right after reset, for the parameters of log 1. -/
def State.reset : State := State.resetWith Params.chosen

end Sys2Proof.Machine
end

