-- ==== Sys2Proof/Machine/Operands.lean ====
section
/-! DEFINITION. The arithmetic and bit operations the rules are written in (00_scope.md R17, R18) and the sampled level
(42_host_and_control.md R181). -/

namespace Sys2Proof.Machine

/-- `addW(a, b) = (a + b) mod 2^TICK_W` (00_scope.md R17). -/
def addW (a b : Tick) : Tick := a + b

/-- `subW(a, b) = (a - b + 2^TICK_W) mod 2^TICK_W` (00_scope.md R17). -/
def subW (a b : Tick) : Tick := a - b

/-- The due test: the tick `t` is now or in the past, read as a signed difference (41_receiver.md R147). -/
def due (now t : Tick) : Bool := (subW now t).toNat < 2 ^ (tickW - 1)

/-- The ClockSync exit threshold `thr(a) = a + (a div 2)`, on unbounded naturals (41_receiver.md R145). -/
def thr (a : Nat) : Nat := a + a / 2

/-- A level as a byte, 0 or 1. -/
def levelByte (l : Level) : Byte := if l then 1 else 0

/-- A flag or level as a 32-bit value, 0 or 1. -/
def flagWord (b : Bool) : Word := if b then 1 else 0

/-- `zext_32(v)` (00_scope.md R17, 10_state.md R43). -/
def zext32 {n : Nat} (v : BitVec n) : Word := v.setWidth 32

/-- The frame synchroniser's shift: the older bits move one place toward bit 0 and the sample enters at bit 7
(20_memory.md R63, 41_receiver.md R148). -/
def shiftIn (f : Byte) (s : Level) : Byte := (f >>> 1) ||| (levelByte s <<< 7)

/-- Byte `b` with the sample in bit `k`, whatever its value: `(b & ~(1 << k) & 0xFF) | (s << k)` (41_receiver.md R149). -/
def putBit (b : Byte) (k : BitVec 3) (s : Level) : Byte :=
  (b &&& ~~~(1#8 <<< k.toNat)) ||| (levelByte s <<< k.toNat)

/-- `min(p + 1, 8)`, computed on naturals (41_receiver.md R148, 10_state.md R36). -/
def saturate8 (p : BitVec 4) : BitVec 4 := BitVec.ofNat 4 (min (p.toNat + 1) 8)

/-- SAMPLE(L): the level the receiver sees in a TICK, with `txOut` as it is before this TICK's TX_TICK
(42_host_and_control.md R181). -/
def sample (loopback : Bool) (txOut l : Level) : Level := if loopback then txOut else l

end Sys2Proof.Machine
end

