-- ==== Sys2Proof/Machine/Flags.lean ====
section
/-! DEFINITION. The derived status flags (10_state.md R42) and the registers the host reads by number (R43 to R46). -/

namespace Sys2Proof.Machine

/-- The 3-bit code of a transmitter phase (10_state.md R22). -/
def TxPhase.code : TxPhase → BitVec 3
  | .idle => 0
  | .preamble => 1
  | .sync => 2
  | .data => 3
  | .done => 4

/-- The 3-bit code of a receiver state (10_state.md R27). -/
def RxState.code : RxState → BitVec 3
  | .waiting => 0
  | .clockSync => 1
  | .awaitFrame => 2
  | .receiving => 3
  | .complete => 4

/-- `isDone = (txPhase == Done)` (10_state.md R42). -/
def Tx.isDone (t : Tx) : Bool := t.txPhase == .done

/-- `rxComplete = (rxState == Complete)` (10_state.md R42). -/
def Rx.rxComplete (r : Rx) : Bool := r.rxState == .complete

/-- STATUS: `txPhase | isDone<<3 | txOut<<4 | rxState<<5 | rxComplete<<8 | lastBit<<9 | bitBufferPos<<16 | bitBufferBit<<28`
(10_state.md R44). -/
def State.status (s : State) : Word :=
  zext32 s.tx.txPhase.code ||| flagWord s.tx.isDone <<< 3 ||| flagWord s.tx.txOut <<< 4 |||
  zext32 s.rx.rxState.code <<< 5 ||| flagWord s.rx.rxComplete <<< 8 ||| flagWord s.rx.lastBit <<< 9 |||
  zext32 s.rx.bitBufferPos <<< 16 ||| zext32 s.rx.bitBufferBit <<< 28

/-- RX_FRAME: bits 7:0 the frame register, bits 11:8 `frameBitPos` (10_state.md R45). -/
def Rx.frameReg (r : Rx) : Word := zext32 r.frameShiftRegister ||| zext32 r.frameBitPos <<< 8

/-- CONFIG: bits 11:0 RX_CAP, bits 23:12 TX_MAX, bit 24 LOOPBACK (10_state.md R46). -/
def configReg (p : Params) : Word := zext32 p.rxCap ||| zext32 p.txMax <<< 12 ||| flagWord p.loopback <<< 24

/-- REG(n), the value of register number `n`; `none` for a reserved number (10_state.md R43, R47). -/
def State.readReg (s : State) (n : Nat) : Option Word :=
  match n with
  | 0x000 => some s.status
  | 0x001 => some (zext32 s.now)
  | 0x002 => some (zext32 s.rx.pulseTimeTotal)
  | 0x003 => some (zext32 s.rx.numPulses)
  | 0x004 => some (zext32 s.rx.avgPulseTime)
  | 0x005 => some (zext32 s.rx.systimePrevPulse)
  | 0x006 => some (zext32 s.rx.systimeNextPulse)
  | 0x007 => some (zext32 s.rx.systimeNextSample)
  | 0x008 => some s.rx.frameReg
  | 0x009 => some (zext32 s.tx.bitPosition)
  | 0x00A => some (zext32 s.tx.payloadLen)
  | 0x00B => some (zext32 s.tx.stageLen)
  | 0x00C => some (configReg s.params)
  | _ => none

end Sys2Proof.Machine
end

