-- ==== Sys2Proof/Machine/Ops.lean ====
section
/-! DEFINITION. The named operations over the buffers and the state that the meanings share: MemRead and MemWrite
(00_scope.md R18, 20_memory.md R60, R61), the output of a read, and recording a refusal (00_scope.md R19).
The hardware takes no exception and returns from none (60_exceptions.md R210, R218, R219), so there is no such operation. -/

namespace Sys2Proof.Machine

/-- The byte at index `i`; an index not listed reads `0x00` (log 8). -/
def Mem.read : Mem → Nat → Byte
  | [], _ => 0
  | c :: m, i => if c.1 = i then c.2 else Mem.read m i

/-- `m` with byte `v` at index `i`, in the canonical form: writing `0x00` removes the cell. -/
def Mem.write : Mem → Nat → Byte → Mem
  | [], i, v => if v = 0 then [] else [(i, v)]
  | c :: m, i, v =>
    if i < c.1 then (if v = 0 then c :: m else (i, v) :: c :: m)
    else if i = c.1 then (if v = 0 then m else (i, v) :: m)
    else c :: Mem.write m i v

/-- The canonical form: indices strictly rising and no cell holding what an unlisted index reads as. -/
def Mem.wf : Mem → Bool
  | [] => true
  | [c] => c.2 != 0
  | c :: d :: m => c.2 != 0 && decide (c.1 < d.1) && Mem.wf (d :: m)

/-- Every listed index is legal for a space of `n` bytes (20_memory.md R61). -/
abbrev Mem.Below (m : Mem) (n : Nat) : Prop := ∀ c ∈ m, c.1 < n

/-- A hardware write of one byte of a space of `n` bytes: an index outside the space writes nothing (20_memory.md R61).
Hardware accesses are always in range (10_state.md R49), so the second branch is reached in no run (log 9). -/
def Mem.writeIn (n : Nat) (m : Mem) (i : Nat) (v : Byte) : Mem := if i < n then m.write i v else m

/-- `ret v`: the event ends with output `v`; nothing of the engine changes (00_scope.md R18, 20_memory.md R67). -/
def State.ret (s : State) (v : Word) : State := { s with output := some v }

/-- The transmitter part replaced. -/
def State.withTx (s : State) (t : Tx) : State := { s with tx := t }

/-- The receiver part replaced. -/
def State.withRx (s : State) (r : Rx) : State := { s with rx := r }

/-- A refused event sets the refusal mark and leaves the rest as it was; a mark already set is kept
(00_scope.md R19, 10_state.md R52; which code a second refusal leaves is DESIGN CHOICE, log 5). -/
def State.recordRefusal (s : State) (c : RefCode) : State :=
  match s.refusalMark with
  | some _ => s
  | none => { s with refusalMark := some c }

/-- `refuse(REASON)`: the event has no meaning (00_scope.md R18, R19). -/
def refuse (c : RefCode) : Host.Outcome State Fault Refusal := .refused (.outsideContract c)

end Sys2Proof.Machine
end

