-- ==== Sys2Proof/Machine/Receiver.lean ====
section
/-! DEFINITION. The receiver (41_receiver.md): RX_STEP with its five states, and RX_INIT. `cap` is RX_CAP, `now` the tick
counter after this TICK's increment, `s` the sampled level of this TICK. -/

namespace Sys2Proof.Machine

/-- RX_STEP in Waiting (41_receiver.md R142). -/
def Rx.stepWaiting (r : Rx) (now : Tick) (s : Level) : Rx :=
  if s != r.lastBit then
    { r with systimePrevPulse := now, pulseTimeTotal := 0, numPulses := 0, avgPulseTime := 0, lastBit := s,
             rxState := .clockSync }
  else r

/-- ESTIMATE, the period estimate and edge projection (41_receiver.md R144); its caller has `numPulses >= 4`. -/
def Rx.estimate (r : Rx) (now : Tick) : Rx :=
  let avg := r.pulseTimeTotal / r.numPulses
  { r with avgPulseTime := avg, systimeNextPulse := addW now avg }

/-- The interval since the last observed transition, folded into the accumulators (41_receiver.md R143). -/
def Rx.foldInterval (r : Rx) (now : Tick) : Rx :=
  { r with pulseTimeTotal := addW r.pulseTimeTotal (subW now r.systimePrevPulse), numPulses := addW r.numPulses 1 }

/-- The observed edge recorded (41_receiver.md R143). -/
def Rx.markEdge (r : Rx) (now : Tick) (s : Level) : Rx := { r with systimePrevPulse := now, lastBit := s }

/-- RX_STEP in ClockSync at a transition (41_receiver.md R143). -/
def Rx.stepTransition (r : Rx) (now : Tick) (s : Level) : Rx :=
  let r1 := r.foldInterval now
  if 4 ≤ r1.numPulses.toNat then (r1.estimate now).markEdge now s else r1.markEdge now s

/-- ENTER_AWAITFRAME (41_receiver.md R146). -/
def Rx.enterAwaitFrame (r : Rx) : Rx :=
  { r with rxState := .awaitFrame, systimeNextSample := addW r.systimeNextPulse (r.avgPulseTime / 2),
           frameShiftRegister := framePreload, frameBitPos := 0 }

/-- RX_STEP in ClockSync without a transition: the exit test, strict (41_receiver.md R145). -/
def Rx.stepIdle (r : Rx) (now : Tick) : Rx :=
  if 4 ≤ r.numPulses.toNat ∧ thr r.avgPulseTime.toNat < (subW now r.systimePrevPulse).toNat then r.enterAwaitFrame
  else r

/-- RX_STEP in ClockSync (41_receiver.md R141, R143, R145). -/
def Rx.stepClockSync (r : Rx) (now : Tick) (s : Level) : Rx :=
  if s != r.lastBit then r.stepTransition now s else r.stepIdle now

/-- RX_STEP in AwaitFrame (41_receiver.md R148): one sample at most per TICK (R154), the grid advanced by
`avgPulseTime` (R155). -/
def Rx.stepAwaitFrame (r : Rx) (now : Tick) (s : Level) : Rx :=
  if due now r.systimeNextSample then
    let f := shiftIn r.frameShiftRegister s
    let r1 := { r with frameShiftRegister := f, frameBitPos := saturate8 r.frameBitPos,
                       systimeNextSample := addW r.systimeNextSample r.avgPulseTime }
    if f = frameStart then { r1 with rxState := .receiving, bitBufferPos := 0, bitBufferBit := 0 } else r1
  else r

/-- BYTE_DONE(b) (41_receiver.md R150). -/
def Rx.byteDone (cap : Idx) (r : Rx) (b : Byte) : Rx :=
  let r1 := { r with bitBufferBit := 0 }
  if b = frameEnd then { r1 with rxState := .complete }
  else
    let pos := r.bitBufferPos + 1
    if pos = cap then { r1 with bitBufferPos := pos, rxState := .complete } else { r1 with bitBufferPos := pos }

/-- RX_STEP in Receiving (41_receiver.md R149): one sample at most per TICK (R154). -/
def Rx.stepReceiving (cap : Idx) (r : Rx) (now : Tick) (s : Level) : Rx :=
  if due now r.systimeNextSample then
    let b := putBit (r.bitBuffer.read r.bitBufferPos.toNat) r.bitBufferBit s
    let r1 := { r with systimeNextSample := addW r.systimeNextSample r.avgPulseTime,
                       bitBuffer := Mem.writeIn cap.toNat r.bitBuffer r.bitBufferPos.toNat b }
    if r.bitBufferBit = 7 then Rx.byteDone cap r1 b else { r1 with bitBufferBit := r.bitBufferBit + 1 }
  else r

/-- RX_STEP, the receiver half of TICK: dispatch on the state (41_receiver.md R140; Complete R151). -/
def Rx.step (cap : Idx) (r : Rx) (now : Tick) (s : Level) : Rx :=
  match r.rxState with
  | .waiting => r.stepWaiting now s
  | .clockSync => r.stepClockSync now s
  | .awaitFrame => r.stepAwaitFrame now s
  | .receiving => Rx.stepReceiving cap r now s
  | .complete => r

/-- RX_INIT on the receiver, which had any contents: every field to its value of 41_receiver.md R152. -/
def Rx.init (_ : Rx) : Rx :=
  { rxState := .waiting, lastBit := false, pulseTimeTotal := 0, numPulses := 0, avgPulseTime := 0,
    systimePrevPulse := 0, systimeNextPulse := 0, systimeNextSample := 0, frameShiftRegister := 0x00,
    frameBitPos := 0, bitBuffer := [], bitBufferPos := 0, bitBufferBit := 0 }

/-- RX_INIT (41_receiver.md R152). -/
def execRxInit (s : State) : Host.Outcome State Fault Refusal := .next (s.withRx s.rx.init)

end Sys2Proof.Machine
end

