-- ==== Sys2Proof/Machine/Transmitter.lean ====
section
/-! DEFINITION. The transmitter (40_transmitter.md): TX_TICK, TX_START, TX_STOP. -/

namespace Sys2Proof.Machine

/-- `PinWrite(v)`: `txOut <- v` (00_scope.md R18). -/
def Tx.pinWrite (t : Tx) (v : Level) : Tx := { t with txOut := v }

/-- TX_TICK in Preamble: 1 at even positions, 0 at odd; Sync after the eighth (40_transmitter.md R112). -/
def Tx.tickPreamble (t : Tx) : Tx :=
  let t' := t.pinWrite (t.bitPosition.toNat % 2 == 0)
  if t.bitPosition + 1 = 8 then { t' with txPhase := .sync, bitPosition := 0 }
  else { t' with bitPosition := t.bitPosition + 1 }

/-- TX_TICK in Sync: four 1s, then four 0s; Data after the eighth (40_transmitter.md R113). -/
def Tx.tickSync (t : Tx) : Tx :=
  let t' := t.pinWrite (decide (t.bitPosition.toNat < 4))
  if t.bitPosition + 1 = 8 then { t' with txPhase := .data, bitPosition := 0 }
  else { t' with bitPosition := t.bitPosition + 1 }

/-- The payload bit at data position `p`: bit `p mod 8` of `payload[p div 8]` (40_transmitter.md R114, 20_memory.md R62). -/
def Tx.payloadBit (t : Tx) (p : Nat) : Level := (t.payload.read (p / 8)).getLsbD (p % 8)

/-- TX_TICK in Data while bits remain (40_transmitter.md R114). -/
def Tx.tickDataBit (t : Tx) : Tx :=
  { t.pinWrite (t.payloadBit t.bitPosition.toNat) with bitPosition := t.bitPosition + 1 }

/-- TX_TICK in Data when no bits remain: the line low, phase Done (40_transmitter.md R115). -/
def Tx.tickDataEnd (t : Tx) : Tx := { t.pinWrite false with txPhase := .done }

/-- TX_TICK in Data (40_transmitter.md R114, R115). A position above `8 * payloadLen`, which no run reaches
(10_state.md R50), takes R115 (log 9). -/
def Tx.tickData (t : Tx) : Tx :=
  if t.bitPosition.toNat < 8 * t.payloadLen.toNat then t.tickDataBit else t.tickDataEnd

/-- TX_TICK, the transmitter half of TICK: dispatch on the phase (40_transmitter.md R110; Idle R111, Done R116). -/
def Tx.tick (t : Tx) : Tx :=
  match t.txPhase with
  | .idle => t
  | .preamble => t.tickPreamble
  | .sync => t.tickSync
  | .data => t.tickData
  | .done => t

/-- TX_START on the transmitter: STAGE copied into PAYLOAD, the session restarted at Preamble; `txOut` is not written
(40_transmitter.md R117). -/
def Tx.start (t : Tx) : Tx :=
  { t with payload := t.stage, payloadLen := t.stageLen, txPhase := .preamble, bitPosition := 0 }

/-- TX_STOP on the transmitter: Idle, the line low (40_transmitter.md R118). -/
def Tx.stop (t : Tx) : Tx := { t.pinWrite false with txPhase := .idle, bitPosition := 0 }

/-- TX_START (40_transmitter.md R117). -/
def execTxStart (s : State) : Host.Outcome State Fault Refusal := .next (s.withTx s.tx.start)

/-- TX_STOP (40_transmitter.md R118). -/
def execTxStop (s : State) : Host.Outcome State Fault Refusal := .next (s.withTx s.tx.stop)

end Sys2Proof.Machine
end

