-- ==== Sys2Proof/Machine/Control.lean ====
section
/-! DEFINITION. TICK, the control-line edges (42_host_and_control.md R180 to R183) and SYS_RESET
(70_reset_and_hazards.md R240). -/

namespace Sys2Proof.Machine

/-- One tick: the counter first, then the receiver on the level sampled before the transmitter writes, then the
transmitter (42_host_and_control.md R180, 20_memory.md R72). -/
def State.tick (s : State) (l : Level) : State :=
  let now := addW s.now 1
  let lvl := sample s.params.loopback s.tx.txOut l
  { s with now := now, rx := Rx.step s.params.rxCap s.rx now lvl, tx := s.tx.tick }

/-- TICK L: legal in every state, always a next state (42_host_and_control.md R180). -/
def execTick (l : Level) (s : State) : Host.Outcome State Fault Refusal := .next (s.tick l)

/-- One operation of CTRL_MAP (00_scope.md R14): TX_START (R117), TX_STOP (R118) or RX_INIT (R152). -/
def CtrlOp.apply (o : CtrlOp) (s : State) : State :=
  match o with
  | .txStart => s.withTx s.tx.start
  | .txStop => s.withTx s.tx.stop
  | .rxInit => s.withRx s.rx.init

/-- A CTRL_MAP sequence, in order, as one atomic event (42_host_and_control.md R182, 20_memory.md R71). -/
def ctrlSeq : List CtrlOp → State → State
  | [], s => s
  | o :: os, s => ctrlSeq os (CtrlOp.apply o s)

/-- The event that performs the same operation by its own word (00_scope.md R14). -/
def CtrlOp.toEvent : CtrlOp → Instr
  | .txStart => .txStart
  | .txStop => .txStop
  | .rxInit => .rxInit

/-- CTRL_RISE (42_host_and_control.md R182). -/
def execCtrlRise (s : State) : Host.Outcome State Fault Refusal := .next (ctrlSeq s.params.onRise s)

/-- CTRL_FALL (42_host_and_control.md R183). -/
def execCtrlFall (s : State) : Host.Outcome State Fault Refusal := .next (ctrlSeq s.params.onFall s)

/-- SYS_RESET on the transmitter, which had any contents (70_reset_and_hazards.md R240). -/
def Tx.sysReset (_ : Tx) : Tx :=
  { txPhase := .idle, bitPosition := 0, payload := [], payloadLen := 0, stage := [], stageLen := 0, txOut := false }

/-- SYS_RESET: the tick counter and both halves; the parameters, the refusal mark and the pending events are no state of
the engine and stay (70_reset_and_hazards.md R240, 10_state.md R52). -/
def execSysReset (s : State) : Host.Outcome State Fault Refusal :=
  .next { s with now := 0, tx := s.tx.sysReset, rx := s.rx.init }

end Sys2Proof.Machine
end

