-- ==== Sys2Proof/Machine/HostAccess.lean ====
section
/-! DEFINITION. The host's loads and reads (42_host_and_control.md R184 to R188). -/

namespace Sys2Proof.Machine

/-- WR_STAGE idx, data (42_host_and_control.md R184). -/
def execWrStage (idx : Idx) (data : Byte) (s : State) : Host.Outcome State Fault Refusal :=
  if s.params.txMax.toNat ≤ idx.toNat then refuse .index
  else .next (s.withTx { s.tx with stage := s.tx.stage.write idx.toNat data })

/-- WR_STAGE_LEN len (42_host_and_control.md R185). -/
def execWrStageLen (n : Idx) (s : State) : Host.Outcome State Fault Refusal :=
  if s.params.txMax.toNat < n.toNat then refuse .len
  else .next (s.withTx { s.tx with stageLen := n })

/-- RD_REG reg (42_host_and_control.md R186, 10_state.md R43 to R47). -/
def execRdReg (reg : Idx) (s : State) : Host.Outcome State Fault Refusal :=
  match s.readReg reg.toNat with
  | some v => .next (s.ret v)
  | none => refuse .regno

/-- RD_RXBUF idx, in every receiver state (42_host_and_control.md R187, 20_memory.md R69). -/
def execRdRxbuf (idx : Idx) (s : State) : Host.Outcome State Fault Refusal :=
  if s.params.rxCap.toNat ≤ idx.toNat then refuse .index
  else .next (s.ret (zext32 (s.rx.bitBuffer.read idx.toNat)))

/-- RD_STAGE idx (42_host_and_control.md R188). -/
def execRdStage (idx : Idx) (s : State) : Host.Outcome State Fault Refusal :=
  if s.params.txMax.toNat ≤ idx.toNat then refuse .index
  else .next (s.ret (zext32 (s.tx.stage.read idx.toNat)))

end Sys2Proof.Machine
end

