-- ==== Sys2Proof/Machine/Dispatch.lean ====
section
/-! DEFINITION. The meaning of every event: one arm per constructor of Instr (30_encoding.md R85). -/

namespace Sys2Proof.Machine

def exec (i : Instr) (s : State) : Host.Outcome State Fault Refusal :=
  match i with
  | .tick l => Sys2Proof.Machine.execTick l s
  | .txStart => Sys2Proof.Machine.execTxStart s
  | .txStop => Sys2Proof.Machine.execTxStop s
  | .rxInit => Sys2Proof.Machine.execRxInit s
  | .ctrlRise => Sys2Proof.Machine.execCtrlRise s
  | .ctrlFall => Sys2Proof.Machine.execCtrlFall s
  | .wrStage idx data => Sys2Proof.Machine.execWrStage idx data s
  | .wrStageLen n => Sys2Proof.Machine.execWrStageLen n s
  | .rdReg reg => Sys2Proof.Machine.execRdReg reg s
  | .rdRxbuf idx => Sys2Proof.Machine.execRdRxbuf idx s
  | .rdStage idx => Sys2Proof.Machine.execRdStage idx s
  | .sysReset => Sys2Proof.Machine.execSysReset s

end Sys2Proof.Machine
end

