-- ==== Sys2Proof/Machine/Events.lean ====
section
/-! DEFINITION. Taking one event word: decode it, run the event, record a refusal (00_scope.md R19, 20_memory.md R71). -/

namespace Sys2Proof.Machine

/-- The end of an event: one outside the contract leaves the state as it was and sets the refusal mark
(00_scope.md R19, 10_state.md R52). -/
def settle (s : State) (o : Host.Outcome State Fault Refusal) : Host.Outcome State Fault Refusal :=
  match o with
  | .refused (.outsideContract c) => .next (s.recordRefusal c)
  | o' => o'

/-- The event word `w` taken in state `s` (30_encoding.md R86 to R90). -/
def takeWord (w : Word) (s : State) : Host.Outcome State Fault Refusal :=
  match decode w with
  | .event i => settle s (exec i s)
  | .refused c => .next (s.recordRefusal c)

/-- The state in which a waiting event is taken: the event gone from the queue, no output yet (log 3, log 4). -/
def State.beginEvent (s : State) (rest : List Word) : State := { s with events := rest, output := none }

/-- Take the first waiting event; with none waiting the engine holds its state (60_exceptions.md R225, log 3). -/
def takeNextEvent (s : State) : Host.Outcome State Fault Refusal :=
  match s.events with
  | [] => .next s
  | w :: rest => takeWord w (s.beginEvent rest)

/-- Events taken one after another, each seeing every effect of the earlier ones (20_memory.md R71); a refusal ends the run. -/
def execAll : List Instr → State → Host.Outcome State Fault Refusal
  | [], s => .next s
  | i :: is, s =>
    match exec i s with
    | .next s' => execAll is s'
    | o => o

/-- The event word `w` arrives ahead of every waiting event. -/
def State.deliverFirst (s : State) (w : Word) : State := { s with events := w :: s.events }

end Sys2Proof.Machine
end

