-- ==== Sys2Proof/Machine/Step.lean ====
section
/-! DEFINITION. One step of an instance: one waiting event, whole (20_memory.md R71). -/

namespace Sys2Proof.Machine

/-- One step: the first waiting event is taken. -/
def step (s : State) : Host.Outcome State Fault Refusal := takeNextEvent s

/-- `s` with the event word `w` (its low `nbits` bits) first in the queue, so that the next step takes it (log 3). -/
def State.withFetchWord (s : State) (nbits w : Nat) : State := s.deliverFirst (BitVec.ofNat 32 (w % 2 ^ nbits))

end Sys2Proof.Machine
end

