-- ==== Sys2Proof/WellFormed.lean ====
section
/-! DEFINITION. The operand checks by value of 30_encoding.md R89. The widths of the operands are their types. -/

namespace Sys2Proof

/-- The number of registers of 10_state.md R43; register numbers from here on are reserved (R47). -/
def numRegs : Nat := 0x00D

/-- The check of 30_encoding.md R89 that an event fails, under the instance's parameters; `none` where it passes. -/
def Instr.operandFault (p : Params) : Instr → Option RefCode
  | .wrStage idx _ => if p.txMax.toNat ≤ idx.toNat then some .index else none
  | .wrStageLen n => if p.txMax.toNat < n.toNat then some .len else none
  | .rdReg reg => if numRegs ≤ reg.toNat then some .regno else none
  | .rdRxbuf idx => if p.rxCap.toNat ≤ idx.toNat then some .index else none
  | .rdStage idx => if p.txMax.toNat ≤ idx.toNat then some .index else none
  | .tick _ => none
  | .txStart => none
  | .txStop => none
  | .rxInit => none
  | .ctrlRise => none
  | .ctrlFall => none
  | .sysReset => none

/-- An event that passes the operand checks of 30_encoding.md R89 on an instance with parameters `p`. -/
abbrev Instr.WellFormed (p : Params) (i : Instr) : Prop := i.operandFault p = none

end Sys2Proof
end

