-- ==== Sys2Proof/Machine/Assembler.lean ====
section
/-! DEFINITION. The textual form of an event program and its pseudo-events (30_encoding.md R91, R92). Text is a list of
characters, one list per line. Conventions the spec leaves open are in log 16. -/

namespace Sys2Proof.Machine

/-- One line's meaning: an event, or a pseudo-event of 30_encoding.md R92. -/
inductive Command where
  | event (i : Instr)
  | ticks (n : Nat)
  | hold (l : Level) (n : Nat)
  | load (bytes : List Byte)
  | send (bytes : List Byte)
  | wave (t : Nat) (ls : List Level)
  deriving DecidableEq, Repr

/-- WR_STAGE from index `k` on, one event a byte. -/
def stageFrom : Nat → List Byte → List Instr
  | _, [] => []
  | k, b :: bs => .wrStage (BitVec.ofNat 12 k) b :: stageFrom (k + 1) bs

/-- LOAD: the bytes, then their number (30_encoding.md R92). -/
def expandLoad (bytes : List Byte) : List Instr :=
  stageFrom 0 bytes ++ [.wrStageLen (BitVec.ofNat 12 bytes.length)]

/-- The expansion of a line into events (30_encoding.md R92). -/
def Command.expand : Command → List Instr
  | .event i => [i]
  | .ticks n => List.replicate n (.tick false)
  | .hold l n => List.replicate n (.tick l)
  | .load bytes => expandLoad bytes
  | .send bytes => expandLoad bytes ++ [.txStart]
  | .wave t ls => ls.flatMap fun l => List.replicate t (.tick l)

/-- Operands are separated by commas; blanks separate too (log 16). -/
def isSeparator (c : Char) : Bool := c == ' ' || c == ',' || c == '\t'

/-- The tokens of a text, `cur` the current token reversed. -/
def tokensFrom (cur : List Char) : List Char → List (List Char)
  | [] => if cur.isEmpty then [] else [cur.reverse]
  | c :: cs =>
    if isSeparator c then (if cur.isEmpty then tokensFrom [] cs else cur.reverse :: tokensFrom [] cs)
    else tokensFrom (c :: cur) cs

/-- A line's tokens: `;` starts a comment, and `-> value` after a read is its result, not an operand (30_encoding.md R91). -/
def lineTokens (line : List Char) : List (List Char) :=
  (tokensFrom [] (line.takeWhile (· != ';'))).takeWhile (· != ['-', '>'])

/-- The value of a digit, hexadecimal included. -/
def digitValue (c : Char) : Option Nat :=
  if 48 ≤ c.toNat ∧ c.toNat ≤ 57 then some (c.toNat - 48)
  else if 65 ≤ c.toNat ∧ c.toNat ≤ 70 then some (c.toNat - 55)
  else if 97 ≤ c.toNat ∧ c.toNat ≤ 102 then some (c.toNat - 87)
  else none

/-- Digits in a base, most significant first, after the value `acc`. -/
def digitsFrom (base acc : Nat) : List Char → Option Nat
  | [] => some acc
  | c :: cs =>
    match digitValue c with
    | some d => if d < base then digitsFrom base (acc * base + d) cs else none
    | none => none

/-- A number, decimal or `0x` hexadecimal (30_encoding.md R91). -/
def parseNumber : List Char → Option Nat
  | [] => none
  | '0' :: 'x' :: c :: cs => digitsFrom 16 0 (c :: cs)
  | c :: cs => digitsFrom 10 0 (c :: cs)

/-- A number below `2^n` as a value of `n` bits. -/
def parseBits (n : Nat) (t : List Char) : Option (BitVec n) :=
  match parseNumber t with
  | some v => if v < 2 ^ n then some (BitVec.ofNat n v) else none
  | none => none

/-- A level, `0` or `1`. -/
def parseLevel (t : List Char) : Option Level :=
  match parseNumber t with
  | some 0 => some false
  | some 1 => some true
  | _ => none

/-- The register names of 10_state.md R43, in the order of their numbers. -/
def regNames : List String :=
  ["STATUS", "NOW", "RX_PULSE_TOTAL", "RX_NUM_PULSES", "RX_AVG", "RX_PREV_PULSE", "RX_NEXT_PULSE", "RX_NEXT_SAMPLE",
   "RX_FRAME", "TX_BITPOS", "TX_PAYLOAD_LEN", "STAGE_LEN", "CONFIG"]

/-- A register operand: a number or a name of 10_state.md R43 (30_encoding.md R91). -/
def parseReg (t : List Char) : Option Idx :=
  match parseBits 12 t with
  | some n => some n
  | none => (regNames.findIdx? (fun s => s.toList == t)).map (BitVec.ofNat 12)

/-- The operand tokens all parsed, or nothing. -/
def parseEach {α : Type} (f : List Char → Option α) : List (List Char) → Option (List α)
  | [] => some []
  | t :: ts =>
    match f t, parseEach f ts with
    | some a, some as => some (a :: as)
    | _, _ => none

/-- The bytes of LOAD and SEND; at most 4095, so that their number is a length (00_scope.md R12). -/
def parseBytes (ts : List (List Char)) : Option (List Byte) :=
  match parseEach (parseBits 8) ts with
  | some bs => if bs.length < 4096 then some bs else none
  | none => none

/-- A line's command from its mnemonic and operand tokens (30_encoding.md R91, R92). -/
def parseCommand (m : List Char) (ops : List (List Char)) : Option Command :=
  if m = "TICK".toList then
    match ops with
    | [] => some (.event (.tick false))
    | [l] => (parseLevel l).map fun v => .event (.tick v)
    | _ => none
  else if m = "WR_STAGE".toList then
    match ops with
    | [i, d] =>
      match parseBits 12 i, parseBits 8 d with
      | some idx, some data => some (.event (.wrStage idx data))
      | _, _ => none
    | _ => none
  else if m = "WR_STAGE_LEN".toList then
    match ops with
    | [n] => (parseBits 12 n).map fun v => .event (.wrStageLen v)
    | _ => none
  else if m = "RD_REG".toList then
    match ops with
    | [r] => (parseReg r).map fun v => .event (.rdReg v)
    | _ => none
  else if m = "RD_RXBUF".toList then
    match ops with
    | [i] => (parseBits 12 i).map fun v => .event (.rdRxbuf v)
    | _ => none
  else if m = "RD_STAGE".toList then
    match ops with
    | [i] => (parseBits 12 i).map fun v => .event (.rdStage v)
    | _ => none
  else if m = "TICKS".toList then
    match ops with
    | [n] => (parseNumber n).map .ticks
    | _ => none
  else if m = "HOLD".toList then
    match ops with
    | [l, n] =>
      match parseLevel l, parseNumber n with
      | some v, some k => some (.hold v k)
      | _, _ => none
    | _ => none
  else if m = "LOAD".toList then (parseBytes ops).map .load
  else if m = "SEND".toList then (parseBytes ops).map .send
  else if m = "WAVE".toList then
    match ops with
    | t :: ls =>
      match parseNumber t, parseEach parseLevel ls with
      | some k, some vs => some (.wave k vs)
      | _, _ => none
    | [] => none
  else if ops = [] then
    if m = "TX_START".toList then some (.event .txStart)
    else if m = "TX_STOP".toList then some (.event .txStop)
    else if m = "RX_INIT".toList then some (.event .rxInit)
    else if m = "CTRL_RISE".toList then some (.event .ctrlRise)
    else if m = "CTRL_FALL".toList then some (.event .ctrlFall)
    else if m = "SYS_RESET".toList then some (.event .sysReset)
    else none
  else none

/-- The events of one line; an empty or comment line gives none (30_encoding.md R91). -/
def assembleLine (line : List Char) : Option (List Instr) :=
  match lineTokens line with
  | [] => some []
  | m :: ops => (parseCommand m ops).map Command.expand

/-- The events of a program, a straight-line list (30_encoding.md R91). -/
def assemble : List (List Char) → Option (List Instr)
  | [] => some []
  | l :: ls =>
    match assembleLine l, assemble ls with
    | some is, some rest => some (is ++ rest)
    | _, _ => none

end Sys2Proof.Machine
end

