-- ==== Sys2Proof/Machine/LineFormat.lean ====
section
/-! DEFINITION. The line format of a transmit session (30_encoding.md R80, R81), as the claims about the transmitter and the
receiver name it. The machine itself never reads these definitions. -/

namespace Sys2Proof.Machine

/-- The level at tick `k` from the session start, ticks counted from 0: the table of 30_encoding.md R80. -/
def lineLevel (bytes : List Byte) (k : Nat) : Level :=
  if k < 8 then k % 2 == 0
  else if k < 16 then decide (k - 8 < 4)
  else if k < 16 + 8 * bytes.length then (bytes.getD ((k - 16) / 8) 0).getLsbD ((k - 16) % 8)
  else false

/-- The eight bits of a byte, least significant first (20_memory.md R62). -/
def byteLevels (b : Byte) : List Level :=
  [b.getLsbD 0, b.getLsbD 1, b.getLsbD 2, b.getLsbD 3, b.getLsbD 4, b.getLsbD 5, b.getLsbD 6, b.getLsbD 7]

/-- The levels a session writes, as LSB-first bytes: the preamble byte `0x55`, the sync byte `0x0F`, the payload, and the
0 of the Done entry (30_encoding.md R81, 40_transmitter.md R119). -/
def wave (bytes : List Byte) : List Level := (0x55 :: frameStart :: bytes).flatMap byteLevels ++ [false]

/-- Each level held `t` ticks (30_encoding.md R92, `WAVE`). -/
def stretch (t : Nat) (ls : List Level) : List Level := ls.flatMap (List.replicate t)

/-- The first `n` bytes of a buffer. -/
def Mem.bytes (m : Mem) (n : Nat) : List Byte := (List.range n).map m.read

end Sys2Proof.Machine
end

