-- ==== Sys2Proof/Machine/Link.lean ====
section
/-! DEFINITION. The two-board link (60_exceptions.md R222): two instances A and B with independent ticks; the level of each
TICK of B is A's `txOut` when that TICK is taken. It stands beside `step`, which is one instance (log 12). -/

namespace Sys2Proof.Machine

/-- The two instances of a link; `a` sends on the line that `b` samples (60_exceptions.md R222). -/
structure Link where
  a : State
  b : State
  deriving DecidableEq, Repr

/-- A link has LOOPBACK false on B (60_exceptions.md R222): B samples the level of its TICK, not its own output. A claim about a
link takes this as a premise; A may be of either kind. -/
abbrev Link.Legal (k : Link) : Prop := k.b.params.loopback = false

/-- The link right after power-on, for boards with parameters `pa` and `pb`; on B LOOPBACK is false (60_exceptions.md R222,
70_reset_and_hazards.md R241). -/
def Link.powerOn (pa pb : Params) : Link :=
  { a := State.resetWith pa, b := State.resetWith { pb with loopback := false } }

/-- Which instance takes the next event: any order of the two is a legal run (60_exceptions.md R222, 20_memory.md R73). -/
inductive Board where
  | a
  | b
  deriving DecidableEq, Repr

/-- A TICK word with the level of the line in its L field, whatever stood there; any other word as it is
(42_host_and_control.md R181; that the waiting word's L is overwritten is DESIGN CHOICE, log 12). -/
def wireLevel (l : Level) (w : Word) : Word :=
  if opField w = 0 then (w &&& 0xFFFFFFFE) ||| (if l then 1 else 0) else w

/-- `b` with the line's level in its first waiting TICK. -/
def State.wired (s : State) (l : Level) : State :=
  match s.events with
  | [] => s
  | w :: rest => { s with events := wireLevel l w :: rest }

/-- One event of one board; the other board's state is touched by nothing (60_exceptions.md R222). A TICK of B samples A's
`txOut`. A takes its own word as it waits: where A's LOOPBACK is false its level is the word's L, any level from outside, since R222
gives the level of B's TICKs only (DESIGN CHOICE, log 19). -/
def Link.step (who : Board) (k : Link) : Host.Outcome Link Fault Refusal :=
  match who with
  | .a =>
    match Sys2Proof.Machine.step k.a with
    | .next a' => .next { k with a := a' }
    | .fault f => .fault f
    | .refused r => .refused r
  | .b =>
    match Sys2Proof.Machine.step (k.b.wired k.a.tx.txOut) with
    | .next b' => .next { k with b := b' }
    | .fault f => .fault f
    | .refused r => .refused r

/-- A run of a link under a schedule (60_exceptions.md R222). -/
def Link.run : List Board → Link → Host.Outcome Link Fault Refusal
  | [], k => .next k
  | who :: rest, k =>
    match k.step who with
    | .next k' => Link.run rest k'
    | o => o

end Sys2Proof.Machine
end

