-- ==== Sys2Proof/Safety.lean ====
section
/-! DEFINITION. What counts as a safe run, and the invariants of 10_state.md R48 to R50, in the terms the claims use. -/

namespace Sys2Proof.Machine

/-- No event of the run so far was outside the contract: a claim about the chip takes this as a premise
(00_scope.md R19, log 5). -/
abbrev State.ContractKept (s : State) : Prop := s.refusalMark = none

/-- The three buffers are canonical and list no index outside their space (20_memory.md R60, R61). -/
abbrev State.BuffersOk (s : State) : Prop :=
  (s.tx.stage.wf = true ∧ s.tx.stage.Below s.params.txMax.toNat) ∧
  (s.tx.payload.wf = true ∧ s.tx.payload.Below s.params.txMax.toNat) ∧
  (s.rx.bitBuffer.wf = true ∧ s.rx.bitBuffer.Below s.params.rxCap.toNat)

/-- Both lengths are at most TX_MAX (10_state.md R24, R25). -/
abbrev State.LengthsOk (s : State) : Prop :=
  s.tx.stageLen.toNat ≤ s.params.txMax.toNat ∧ s.tx.payloadLen.toNat ≤ s.params.txMax.toNat

/-- The buffer invariant of 10_state.md R49. -/
abbrev State.CursorOk (s : State) : Prop :=
  s.rx.bitBufferPos.toNat ≤ s.params.rxCap.toNat ∧
  (s.rx.rxState = .receiving → s.rx.bitBufferPos.toNat < s.params.rxCap.toNat) ∧
  (s.rx.bitBufferPos.toNat = s.params.rxCap.toNat → s.rx.rxState = .complete)

/-- The transmitter invariant of 10_state.md R50. -/
abbrev Tx.PositionOk (t : Tx) : Prop :=
  (t.txPhase = .preamble ∨ t.txPhase = .sync → t.bitPosition.toNat ≤ 7) ∧
  (t.txPhase = .data ∨ t.txPhase = .done → t.bitPosition.toNat ≤ 8 * t.payloadLen.toNat) ∧
  (t.txPhase = .idle → t.bitPosition = 0)

/-- `frameBitPos` saturates at 8 (10_state.md R36). -/
abbrev Rx.FrameCountOk (r : Rx) : Prop := r.frameBitPos.toNat ≤ 8

/-- The structural invariant of the instance: legal parameters, buffers, lengths, cursor, transmitter position and frame count. -/
abbrev State.Inv (s : State) : Prop :=
  s.params.Legal ∧ s.BuffersOk ∧ s.LengthsOk ∧ s.CursorOk ∧ s.tx.PositionOk ∧ s.rx.FrameCountOk

/-- The estimator invariant of 10_state.md R48, with the fact it rests on: every interval folded in is at least 1 tick, so the
total is at least the count. -/
abbrev Rx.EstimatorOk (r : Rx) : Prop :=
  r.numPulses.toNat ≤ r.pulseTimeTotal.toNat ∧
  (r.numPulses.toNat < 4 → r.avgPulseTime = 0) ∧
  (4 ≤ r.numPulses.toNat → 1 ≤ r.avgPulseTime.toNat)

/-- The next tick folds in an interval of at least 1 tick and does not wrap the total: it stays inside the horizon of
70_reset_and_hazards.md R253 (log 13). -/
abbrev State.NextTickInHorizon (s : State) : Prop :=
  1 ≤ (subW (addW s.now 1) s.rx.systimePrevPulse).toNat ∧
  s.rx.pulseTimeTotal.toNat + (subW (addW s.now 1) s.rx.systimePrevPulse).toNat < 2 ^ tickW

/-- The level the receiver samples in a TICK with input level `l` taken in `s` (42_host_and_control.md R181). -/
def State.lineIn (s : State) (l : Level) : Level :=
  match s.params.loopback with
  | true => s.tx.txOut
  | false => l

/-- `subW(now, t)` of 00_scope.md R17, on naturals. -/
def ticksSince (now t : Tick) : Nat := (now.toNat + 2 ^ tickW - t.toNat) % 2 ^ tickW

/-- The value `now` has inside a TICK taken in `s`, on naturals (10_state.md R21). -/
def State.nextNow (s : State) : Nat := (s.now.toNat + 1) % 2 ^ tickW

end Sys2Proof.Machine
end

