-- ==== Sys2Proof/Certificates/Slice0/Obligations.lean ====
section
/-! DEFINITION. The statements about this model, for the provers. Each docstring names the rule it formalises. -/

open Sys2Proof Sys2Proof.Machine

/-! ### Encoding -/

/-- Every word of the table of 95_test_vectors.md section 2.1 decodes to the event listed there or is refused by the name listed
there; the four refusals by value that depend on TX_MAX or RX_CAP are of an instance with TX_MAX = 2 and RX_CAP = 4, as the table
says (30_encoding.md R84, R85, R87 to R89). -/
def Obligations.SpecEventWordsDecodeAsListed : Prop :=
  (decode 0x00000000 = .event (.tick false) ∧ decode 0x00000001 = .event (.tick true) ∧
   decode 0x10000000 = .event .txStart ∧ decode 0x20000000 = .event .txStop ∧ decode 0x30000000 = .event .rxInit ∧
   decode 0x40000000 = .event .ctrlRise ∧ decode 0x50000000 = .event .ctrlFall) ∧
  (decode 0x600000AC = .event (.wrStage 0 0xAC) ∧ decode 0x60010053 = .event (.wrStage 1 0x53) ∧
   decode 0x70020000 = .event (.wrStageLen 2) ∧ decode 0x80000000 = .event (.rdReg 0x000) ∧
   decode 0x800C0000 = .event (.rdReg 0x00C) ∧ decode 0x90010000 = .event (.rdRxbuf 1) ∧
   decode 0xA0010000 = .event (.rdStage 1) ∧ decode 0xB0000000 = .event .sysReset) ∧
  (decode 0xC0000000 = .refused .reservedOp ∧ decode 0xF0000000 = .refused .reservedOp ∧
   decode 0x00000002 = .refused .reservedBits ∧ decode 0x10000001 = .refused .reservedBits ∧
   decode 0x80000001 = .refused .reservedBits ∧ decode 0x60000100 = .refused .reservedBits ∧
   decode 0x6FFF0100 = .refused .reservedBits) ∧
  (decode 0x60020000 = .event (.wrStage 2 0x00) ∧ decode 0x70030000 = .event (.wrStageLen 3) ∧
   decode 0x800D0000 = .event (.rdReg 0x00D) ∧ decode 0x90040000 = .event (.rdRxbuf 4) ∧
   decode 0xA0020000 = .event (.rdStage 2)) ∧
  (∀ s : State, s.params.txMax = 2 → s.params.rxCap = 4 →
    exec (.wrStage 2 0x00) s = .refused (.outsideContract .index) ∧
    (∃ t, exec (.wrStageLen 2) s = .next t) ∧
    exec (.wrStageLen 3) s = .refused (.outsideContract .len) ∧
    exec (.rdReg 0x00D) s = .refused (.outsideContract .regno) ∧
    exec (.rdRxbuf 4) s = .refused (.outsideContract .index) ∧
    exec (.rdStage 2) s = .refused (.outsideContract .index))

/-- Decoding an encoded event gives it back, every operand at every value its field admits (30_encoding.md R84, R85). -/
def Obligations.DecodeOfEncodeGivesTheEventBack : Prop :=
  ∀ i : Instr, decode (encode i) = .event i

/-- A word that decodes to an event is that event's only encoding (30_encoding.md R90). -/
def Obligations.EncodeOfDecodedWordGivesTheWordBack : Prop :=
  ∀ (w : Word) (i : Instr), decode w = .event i → encode i = w

/-- The value of every event word, field by field: OP in bits 31:28, IDX in 27:16, DATA in 7:0, L in bit 0
(30_encoding.md R84, R85). -/
def Obligations.EncodedWordHoldsFieldsAtTheirBits : Prop :=
  (∀ l, (encode (.tick l)).toNat = if l then 1 else 0) ∧
  ((encode .txStart).toNat = 1 * 2 ^ 28 ∧ (encode .txStop).toNat = 2 * 2 ^ 28 ∧ (encode .rxInit).toNat = 3 * 2 ^ 28 ∧
   (encode .ctrlRise).toNat = 4 * 2 ^ 28 ∧ (encode .ctrlFall).toNat = 5 * 2 ^ 28 ∧
   (encode .sysReset).toNat = 11 * 2 ^ 28) ∧
  (∀ idx data, (encode (.wrStage idx data)).toNat = 6 * 2 ^ 28 + idx.toNat * 2 ^ 16 + data.toNat) ∧
  (∀ n, (encode (.wrStageLen n)).toNat = 7 * 2 ^ 28 + n.toNat * 2 ^ 16) ∧
  (∀ r, (encode (.rdReg r)).toNat = 8 * 2 ^ 28 + r.toNat * 2 ^ 16) ∧
  (∀ k, (encode (.rdRxbuf k)).toNat = 9 * 2 ^ 28 + k.toNat * 2 ^ 16) ∧
  (∀ k, (encode (.rdStage k)).toNat = 10 * 2 ^ 28 + k.toNat * 2 ^ 16)

/-- REF_RESERVED_OP is the refusal of exactly the words with OP 0xC to 0xF (30_encoding.md R87). -/
def Obligations.ReservedOpIsRefusedByName : Prop :=
  ∀ w : Word, decode w = .refused .reservedOp ↔ 0xC * 2 ^ 28 ≤ w.toNat

/-- REF_RESERVED_BITS is the refusal of exactly the words with OP 0x0 to 0xB and a 1 in a reserved bit: 27:1 for TICK, 27:0 for
N-format events, 15:0 for I-format events, 15:8 for WR_STAGE (30_encoding.md R88). -/
def Obligations.ReservedBitsAreRefusedByName : Prop :=
  ∀ w : Word, decode w = .refused .reservedBits ↔
    (opField w = 0x0 ∧ ∃ k, 1 ≤ k ∧ k ≤ 27 ∧ w.getLsbD k = true) ∨
    (opField w ∈ [0x1, 0x2, 0x3, 0x4, 0x5, 0xB] ∧ ∃ k, k ≤ 27 ∧ w.getLsbD k = true) ∨
    (opField w ∈ [0x7, 0x8, 0x9, 0xA] ∧ ∃ k, k ≤ 15 ∧ w.getLsbD k = true) ∨
    (opField w = 0x6 ∧ ∃ k, 8 ≤ k ∧ k ≤ 15 ∧ w.getLsbD k = true)

/-- No two rows of the opcode table match one word, and the decoder gives an event exactly on the words a row matches, the
event of that row (30_encoding.md R90). -/
def Obligations.OpcodeTableRowsAreDisjointAndDecoded : Prop :=
  (∀ w : Word, ∀ r ∈ opcodeTable, ∀ r' ∈ opcodeTable, r.Matches w → r'.Matches w → r = r') ∧
  (∀ w : Word, (∃ i, decode w = .event i) ↔ ∃ r ∈ opcodeTable, r.Matches w) ∧
  (∀ (w : Word) (i : Instr), decode w = .event i → ∃ r ∈ opcodeTable, r.Matches w ∧ r.mnemonic = i.mnemonic)

/-! ### Events, refusals, the step -/

/-- The step takes the first waiting event: where its word decodes to an event that passes the operand checks, the step is that
event's meaning in the state with the word gone from the queue and no output yet (20_memory.md R71; queue and output are
the model's own, log 3 and log 4). -/
def Obligations.StepRunsTheFirstWaitingEvent : Prop :=
  ∀ (s : State) (w : Word) (rest : List Word) (i : Instr),
    s.events = w :: rest → decode w = .event i → i.WellFormed s.params →
    step s = exec i { s with events := rest, output := none }

/-- With no event waiting the engine holds its state (60_exceptions.md R225; that the step is then taken is DESIGN CHOICE, log 3). -/
def Obligations.StepWithoutEventHoldsTheState : Prop :=
  ∀ s : State, s.events = [] → step s = .next s

/-- The operand checks of 30_encoding.md R89, each refused with its name, and no other event refused; in loopback the L of a
TICK is ignored. -/
def Obligations.OperandChecksRefuseByName : Prop :=
  ∀ s : State,
    (∀ idx data, s.params.txMax.toNat ≤ idx.toNat → exec (.wrStage idx data) s = .refused (.outsideContract .index)) ∧
    (∀ n, s.params.txMax.toNat < n.toNat → exec (.wrStageLen n) s = .refused (.outsideContract .len)) ∧
    (∀ r, 0x00D ≤ r.toNat → exec (.rdReg r) s = .refused (.outsideContract .regno)) ∧
    (∀ idx, s.params.rxCap.toNat ≤ idx.toNat → exec (.rdRxbuf idx) s = .refused (.outsideContract .index)) ∧
    (∀ idx, s.params.txMax.toNat ≤ idx.toNat → exec (.rdStage idx) s = .refused (.outsideContract .index)) ∧
    (∀ i, i.WellFormed s.params → ∃ t, exec i s = .next t) ∧
    (s.params.loopback = true → ∀ l l', exec (.tick l) s = exec (.tick l') s)

/-- A refused event word leaves the tick counter, both halves and the parameters as they were, gives no output, and sets the
refusal mark (00_scope.md R19, 60_exceptions.md R211). That the step goes on to the next event and that a mark already set keeps
its code are DESIGN CHOICE (log 5). -/
def Obligations.RefusedEventOnlySetsTheMark : Prop :=
  ∀ (s : State) (w : Word) (rest : List Word) (c : RefCode), s.events = w :: rest →
    (decode w = .refused c ∨ ∃ i, decode w = .event i ∧ i.operandFault s.params = some c) →
    step s = .next { s with events := rest, output := none, refusalMark := some (s.refusalMark.getD c) }

/-- No step faults, hangs or stops: every state, whatever word waits, has a next state (00_scope.md R19, 60_exceptions.md R210). That a
refused event is a step too, with the mark set, is DESIGN CHOICE (log 5). -/
def Obligations.EveryStepAnswersANextState : Prop :=
  ∀ s : State, ∃ t, step s = .next t

/-- No event reads the refusal mark and none clears it, SYS_RESET included (10_state.md R52). -/
def Obligations.RefusalMarkIsNeverReadNorCleared : Prop :=
  ∀ (s s' : State) (m : Option RefCode), step s = .next s' →
    (s.refusalMark ≠ none → s'.refusalMark ≠ none) ∧
    ∃ m', step { s with refusalMark := m } = .next { s' with refusalMark := m' }

/-! ### Transmitter -/

/-- TX_TICK in Preamble (40_transmitter.md R112), as the transmitter part of a TICK. -/
def Obligations.PreambleTickWritesAlternatingLevels : Prop :=
  ∀ (s : State) (l : Level), s.tx.txPhase = .preamble → ∃ t, exec (.tick l) s = .next t ∧
    t.tx = { s.tx with
      txOut := (if s.tx.bitPosition.toNat % 2 = 0 then true else false)
      txPhase := (if s.tx.bitPosition.toNat = 7 then .sync else .preamble)
      bitPosition := (if s.tx.bitPosition.toNat = 7 then 0 else s.tx.bitPosition + 1) }

/-- TX_TICK in Sync (40_transmitter.md R113), as the transmitter part of a TICK. -/
def Obligations.SyncTickWritesFourOnesThenFourZeros : Prop :=
  ∀ (s : State) (l : Level), s.tx.txPhase = .sync → ∃ t, exec (.tick l) s = .next t ∧
    t.tx = { s.tx with
      txOut := (if s.tx.bitPosition.toNat < 4 then true else false)
      txPhase := (if s.tx.bitPosition.toNat = 7 then .data else .sync)
      bitPosition := (if s.tx.bitPosition.toNat = 7 then 0 else s.tx.bitPosition + 1) }

/-- TX_TICK in Data while bits remain: bit `p mod 8` of `payload[p div 8]` on the line (40_transmitter.md R114). -/
def Obligations.DataTickWritesTheNextPayloadBit : Prop :=
  ∀ (s : State) (l : Level), s.tx.txPhase = .data → s.tx.bitPosition.toNat < 8 * s.tx.payloadLen.toNat →
    ∃ t, exec (.tick l) s = .next t ∧
      t.tx = { s.tx with
        txOut := (s.tx.payload.read (s.tx.bitPosition.toNat / 8) >>> (s.tx.bitPosition.toNat % 8)).getLsbD 0
        bitPosition := BitVec.ofNat 16 (s.tx.bitPosition.toNat + 1) }

/-- TX_TICK in Data when no bits remain: the line low, Done, the position kept, `isDone` true (40_transmitter.md R115). -/
def Obligations.DataEndTickEntersDoneWithLineLow : Prop :=
  ∀ (s : State) (l : Level), s.tx.txPhase = .data → s.tx.bitPosition.toNat = 8 * s.tx.payloadLen.toNat →
    ∃ t, exec (.tick l) s = .next t ∧ t.tx = { s.tx with txOut := false, txPhase := .done } ∧ t.tx.isDone = true

/-- TX_TICK in Idle and in Done changes nothing of the transmitter (40_transmitter.md R111, R116). -/
def Obligations.IdleAndDoneTicksWriteNothing : Prop :=
  ∀ (s : State) (l : Level), s.tx.txPhase = .idle ∨ s.tx.txPhase = .done →
    ∃ t, exec (.tick l) s = .next t ∧ t.tx = s.tx

/-- TX_START: STAGE copied byte for byte, the session restarted at Preamble from every phase; the line, the receiver, the counter,
the staged bytes and everything else unchanged (40_transmitter.md R117). -/
def Obligations.TxStartCopiesStageAndRestartsAtPreamble : Prop :=
  ∀ s : State, ∃ t, exec .txStart s = .next t ∧
    (∀ k, t.tx.payload.read k = s.tx.stage.read k) ∧ t.tx.payloadLen = s.tx.stageLen ∧
    t.tx.txPhase = .preamble ∧ t.tx.bitPosition = 0 ∧ t.tx.isDone = false ∧
    t = { s with tx := { s.tx with
            payload := t.tx.payload, payloadLen := s.tx.stageLen, txPhase := .preamble, bitPosition := 0 } }

/-- TX_STOP: Idle, position 0, line low, in every phase; all else unchanged (40_transmitter.md R118). -/
def Obligations.TxStopIdlesAndDrivesTheLineLow : Prop :=
  ∀ s : State, exec .txStop s = .next { s with tx := { s.tx with txPhase := .idle, bitPosition := 0, txOut := false } }

/-- A session started by TX_START and followed only by TICKs puts the line format of 30_encoding.md R80 on the line, level `k` at
its TICK `k + 1`, and is Done exactly from TICK `17 + 8 n` on (40_transmitter.md R119). -/
def Obligations.SessionPutsTheLineFormatOnTheLine : Prop :=
  ∀ (s : State) (l : Level) (ls : List Level),
    ∃ t, execAll (.txStart :: (l :: ls).map .tick) s = .next t ∧
      t.tx.txOut = lineLevel (s.tx.stage.bytes s.tx.stageLen.toNat) ls.length ∧
      (t.tx.isDone = true ↔ 17 + 8 * s.tx.stageLen.toNat ≤ ls.length + 1)

/-- The table of 30_encoding.md R80 read as LSB-first bytes is `0x55`, `0x0F`, the payload, then 0s (30_encoding.md R81). -/
def Obligations.LineFormatReadAsBytesIsPreambleSyncPayload : Prop :=
  ∀ bytes : List Byte, (wave bytes).length = 17 + 8 * bytes.length ∧
    ∀ k, (wave bytes).getD k false = lineLevel bytes k

/-- The transmitter reads nothing but its own state and the parameters: two instances that agree on these agree on the transmitter
after the same event, whatever their receivers, counters and, in a TICK, input levels (40_transmitter.md R120). -/
def Obligations.TransmitterReadsNeitherLineReceiverNorCounter : Prop :=
  ∀ (s s' t t' : State), s.tx = s'.tx → s.params = s'.params →
    (∀ i, exec i s = .next t → exec i s' = .next t' → t.tx = t'.tx) ∧
    (∀ l l', exec (.tick l) s = .next t → exec (.tick l') s' = .next t' → t.tx = t'.tx)

/-- The payload and its length are written only by TX_START, by a control edge that performs it, and by SYS_RESET
(10_state.md R24, 20_memory.md R68). -/
def Obligations.PayloadIsImmutableForTheSession : Prop :=
  ∀ (i : Instr) (s t : State), exec i s = .next t →
    (t.tx.payload ≠ s.tx.payload ∨ t.tx.payloadLen ≠ s.tx.payloadLen) →
    i = .txStart ∨ i = .sysReset ∨ (i = .ctrlRise ∧ .txStart ∈ s.params.onRise) ∨
      (i = .ctrlFall ∧ .txStart ∈ s.params.onFall)

/-- The line is written only by a TICK, by TX_STOP, by a control edge that performs it, and by SYS_RESET; the phase and the position
change besides only by TX_START and a control edge that performs it (10_state.md R22, R26, R41). -/
def Obligations.LineAndPhaseHaveOnlyTheirWriters : Prop :=
  ∀ (i : Instr) (s t : State), exec i s = .next t →
    (t.tx.txOut ≠ s.tx.txOut →
      (∃ l, i = .tick l) ∨ i = .txStop ∨ i = .sysReset ∨ (i = .ctrlRise ∧ .txStop ∈ s.params.onRise) ∨
        (i = .ctrlFall ∧ .txStop ∈ s.params.onFall)) ∧
    ((t.tx.txPhase ≠ s.tx.txPhase ∨ t.tx.bitPosition ≠ s.tx.bitPosition) →
      (∃ l, i = .tick l) ∨ i = .txStart ∨ i = .txStop ∨ i = .sysReset ∨
        (i = .ctrlRise ∧ (.txStart ∈ s.params.onRise ∨ .txStop ∈ s.params.onRise)) ∨
        (i = .ctrlFall ∧ (.txStart ∈ s.params.onFall ∨ .txStop ∈ s.params.onFall)))

/-! ### Receiver -/

/-- TICK in Waiting: a transition starts ClockSync with the accumulators at 0, otherwise nothing changes (41_receiver.md R142). -/
def Obligations.WaitingTickTakesTheFirstTransition : Prop :=
  ∀ (s : State) (l : Level), s.rx.rxState = .waiting → ∃ t, exec (.tick l) s = .next t ∧
    (s.lineIn l = s.rx.lastBit → t.rx = s.rx) ∧
    (s.lineIn l ≠ s.rx.lastBit →
      t.rx = { s.rx with
        systimePrevPulse := BitVec.ofNat 32 s.nextNow, pulseTimeTotal := 0, numPulses := 0, avgPulseTime := 0,
        lastBit := s.lineIn l, rxState := .clockSync })

/-- TICK in ClockSync at a transition: the interval is folded in, and from the fourth on the estimate is the floor of the mean and
the next edge is projected; no exit test (41_receiver.md R143, R144). -/
def Obligations.ClockSyncTransitionFoldsTheInterval : Prop :=
  ∀ (s : State) (l : Level), s.rx.rxState = .clockSync → s.lineIn l ≠ s.rx.lastBit →
    ∃ t, exec (.tick l) s = .next t ∧ t.rx.rxState = .clockSync ∧
      t.rx.pulseTimeTotal.toNat =
        (s.rx.pulseTimeTotal.toNat + ticksSince (BitVec.ofNat 32 s.nextNow) s.rx.systimePrevPulse) % 2 ^ 32 ∧
      t.rx.numPulses.toNat = (s.rx.numPulses.toNat + 1) % 2 ^ 32 ∧
      (4 ≤ t.rx.numPulses.toNat →
        t.rx.avgPulseTime.toNat = t.rx.pulseTimeTotal.toNat / t.rx.numPulses.toNat ∧
        t.rx.systimeNextPulse.toNat = (s.nextNow + t.rx.avgPulseTime.toNat) % 2 ^ 32) ∧
      (t.rx.numPulses.toNat < 4 →
        t.rx.avgPulseTime = s.rx.avgPulseTime ∧ t.rx.systimeNextPulse = s.rx.systimeNextPulse) ∧
      t.rx.systimePrevPulse.toNat = s.nextNow ∧ t.rx.lastBit = s.lineIn l ∧
      t.rx = { s.rx with
        pulseTimeTotal := t.rx.pulseTimeTotal, numPulses := t.rx.numPulses, avgPulseTime := t.rx.avgPulseTime,
        systimeNextPulse := t.rx.systimeNextPulse, systimePrevPulse := t.rx.systimePrevPulse,
        lastBit := t.rx.lastBit }

/-- TICK in ClockSync without a transition: AwaitFrame exactly when four intervals are in and the idle time is strictly above
`avg + avg div 2`, with the first sample half a period after the projected edge and the register preloaded
(41_receiver.md R145, R146). -/
def Obligations.ClockSyncIdleExitsStrictlyAboveThreshold : Prop :=
  ∀ (s : State) (l : Level), s.rx.rxState = .clockSync → s.lineIn l = s.rx.lastBit →
    ∃ t, exec (.tick l) s = .next t ∧
      ((4 ≤ s.rx.numPulses.toNat ∧
        s.rx.avgPulseTime.toNat + s.rx.avgPulseTime.toNat / 2 <
          ticksSince (BitVec.ofNat 32 s.nextNow) s.rx.systimePrevPulse) →
        t.rx.systimeNextSample.toNat = (s.rx.systimeNextPulse.toNat + s.rx.avgPulseTime.toNat / 2) % 2 ^ 32 ∧
        t.rx = { s.rx with
          rxState := .awaitFrame, systimeNextSample := t.rx.systimeNextSample, frameShiftRegister := 0xFF,
          frameBitPos := 0 }) ∧
      (¬ (4 ≤ s.rx.numPulses.toNat ∧
        s.rx.avgPulseTime.toNat + s.rx.avgPulseTime.toNat / 2 <
          ticksSince (BitVec.ofNat 32 s.nextNow) s.rx.systimePrevPulse) → t.rx = s.rx)

/-- The due test: `t` is at most `2^31 - 1` ticks in the past, with the spec's corner cases (41_receiver.md R147). -/
def Obligations.DueMeansAtOrAfter : Prop :=
  (∀ now t : Tick, due now t = true ↔ ∃ d, d < 2 ^ 31 ∧ now.toNat = (t.toNat + d) % 2 ^ 32) ∧
  (due 5 5 = true ∧ due 4 5 = false ∧ due 1 0xFFFFFFFF = true ∧ due 0x7FFFFFFF 0 = true ∧ due 0x80000000 0 = false)

/-- TICK in AwaitFrame at a sample instant: the sample enters the register at bit 7, the count saturates at 8, the schedule
advances by one period, and `0x0F` starts Receiving; otherwise nothing changes (41_receiver.md R148). -/
def Obligations.AwaitFrameTickShiftsAndMatchesTheSentinel : Prop :=
  ∀ (s : State) (l : Level), s.rx.rxState = .awaitFrame → ∃ t, exec (.tick l) s = .next t ∧
    (2 ^ 31 ≤ ticksSince (BitVec.ofNat 32 s.nextNow) s.rx.systimeNextSample → t.rx = s.rx) ∧
    (ticksSince (BitVec.ofNat 32 s.nextNow) s.rx.systimeNextSample < 2 ^ 31 →
      t.rx.frameShiftRegister.toNat = s.rx.frameShiftRegister.toNat / 2 + (if s.lineIn l then 128 else 0) ∧
      t.rx.frameBitPos.toNat = min (s.rx.frameBitPos.toNat + 1) 8 ∧
      t.rx.systimeNextSample.toNat = (s.rx.systimeNextSample.toNat + s.rx.avgPulseTime.toNat) % 2 ^ 32 ∧
      (t.rx.frameShiftRegister = 0x0F →
        t.rx = { s.rx with
          frameShiftRegister := 0x0F, frameBitPos := t.rx.frameBitPos, systimeNextSample := t.rx.systimeNextSample,
          rxState := .receiving, bitBufferPos := 0, bitBufferBit := 0 }) ∧
      (t.rx.frameShiftRegister ≠ 0x0F →
        t.rx = { s.rx with
          frameShiftRegister := t.rx.frameShiftRegister, frameBitPos := t.rx.frameBitPos,
          systimeNextSample := t.rx.systimeNextSample }))

/-- TICK in Receiving, with the cursor in range (10_state.md R49): at a sample instant the sample is written to its bit of its byte
and to nothing else, the schedule advances by one period; the eighth bit ends the byte, a zero byte ends the frame without being
counted, and a full buffer ends it (41_receiver.md R149, R150). -/
def Obligations.ReceivingTickWritesOneBitAndEndsBytes : Prop :=
  ∀ (s : State) (l : Level), s.rx.rxState = .receiving → s.rx.bitBufferPos.toNat < s.params.rxCap.toNat →
    s.rx.bitBuffer.wf = true →
    ∃ t, exec (.tick l) s = .next t ∧
      (2 ^ 31 ≤ ticksSince (BitVec.ofNat 32 s.nextNow) s.rx.systimeNextSample → t.rx = s.rx) ∧
      (ticksSince (BitVec.ofNat 32 s.nextNow) s.rx.systimeNextSample < 2 ^ 31 →
        t.rx.systimeNextSample.toNat = (s.rx.systimeNextSample.toNat + s.rx.avgPulseTime.toNat) % 2 ^ 32 ∧
        (∀ k, k < 8 → (t.rx.bitBuffer.read s.rx.bitBufferPos.toNat).getLsbD k =
          if k = s.rx.bitBufferBit.toNat then s.lineIn l
          else (s.rx.bitBuffer.read s.rx.bitBufferPos.toNat).getLsbD k) ∧
        (∀ a, a ≠ s.rx.bitBufferPos.toNat → t.rx.bitBuffer.read a = s.rx.bitBuffer.read a) ∧
        t.rx = { s.rx with
          systimeNextSample := t.rx.systimeNextSample
          bitBuffer := t.rx.bitBuffer
          bitBufferBit := (if s.rx.bitBufferBit.toNat = 7 then 0 else s.rx.bitBufferBit + 1)
          bitBufferPos := (if s.rx.bitBufferBit.toNat = 7 ∧ t.rx.bitBuffer.read s.rx.bitBufferPos.toNat ≠ 0x00
            then s.rx.bitBufferPos + 1 else s.rx.bitBufferPos)
          rxState := (if s.rx.bitBufferBit.toNat = 7 ∧ (t.rx.bitBuffer.read s.rx.bitBufferPos.toNat = 0x00 ∨
              s.rx.bitBufferPos.toNat + 1 = s.params.rxCap.toNat) then .complete else .receiving) })

/-- Once Complete, TICKs never change the receiver, whatever their number and levels (41_receiver.md R151). -/
def Obligations.CompleteReceiverIsFrozenUnderTicks : Prop :=
  ∀ (s : State) (ls : List Level), s.rx.rxState = .complete →
    ∃ t, execAll (ls.map .tick) s = .next t ∧ t.rx = s.rx ∧ t.rx.rxComplete = true

/-- RX_INIT: every receiver field 0 and Waiting, from every state; the counter, the transmitter and all else unchanged
(41_receiver.md R152). -/
def Obligations.RxInitZeroesTheReceiver : Prop :=
  ∀ s : State, ∃ t, exec .rxInit s = .next t ∧ t = { s with rx := t.rx } ∧
    t.rx.rxState = .waiting ∧ t.rx.lastBit = false ∧ t.rx.pulseTimeTotal = 0 ∧ t.rx.numPulses = 0 ∧
    t.rx.avgPulseTime = 0 ∧ t.rx.systimePrevPulse = 0 ∧ t.rx.systimeNextPulse = 0 ∧ t.rx.systimeNextSample = 0 ∧
    t.rx.frameShiftRegister = 0x00 ∧ t.rx.frameBitPos = 0 ∧ (∀ k, t.rx.bitBuffer.read k = 0x00) ∧
    t.rx.bitBufferPos = 0 ∧ t.rx.bitBufferBit = 0 ∧ t.rx.rxComplete = false

/-- A strict linear progression: an event leaves `rxState` where it is, or a TICK moves it one code up, or an event that performs
RX_INIT, or SYS_RESET, sets it to Waiting (10_state.md R27, 60_exceptions.md R213). -/
def Obligations.ReceiverStateMovesOneCodeUpOrIsReset : Prop :=
  ∀ (i : Instr) (s t : State), exec i s = .next t →
    t.rx.rxState = s.rx.rxState ∨
    (∃ l, i = .tick l ∧ t.rx.rxState.code.toNat = s.rx.rxState.code.toNat + 1) ∨
    (t.rx.rxState = .waiting ∧ (i = .rxInit ∨ i = .sysReset ∨ (i = .ctrlRise ∧ .rxInit ∈ s.params.onRise) ∨
      (i = .ctrlFall ∧ .rxInit ∈ s.params.onFall)))

/-- After ClockSync the sample grid is fixed: over any TICKs the estimate, the edge times and `lastBit` stay, and the schedule is
advanced by a whole number of periods, at most one a TICK (41_receiver.md R154, R155). -/
def Obligations.SampleGridIsFixedAfterClockSync : Prop :=
  ∀ (s : State) (ls : List Level),
    s.rx.rxState = .awaitFrame ∨ s.rx.rxState = .receiving ∨ s.rx.rxState = .complete →
    ∃ t k, execAll (ls.map .tick) s = .next t ∧ k ≤ ls.length ∧
      t.rx.systimeNextSample = s.rx.systimeNextSample + BitVec.ofNat 32 k * s.rx.avgPulseTime ∧
      t.rx.avgPulseTime = s.rx.avgPulseTime ∧ t.rx.lastBit = s.rx.lastBit ∧
      t.rx.systimePrevPulse = s.rx.systimePrevPulse ∧ t.rx.systimeNextPulse = s.rx.systimeNextPulse

/-- The first sample instant is exactly two ticks before the TICK after the ClockSync exit (41_receiver.md R146, 10_state.md R51):
with the edge projected from the last transition and the idle time just above the threshold. -/
def Obligations.FirstSampleInstantIsTwoTicksBeforeTheNextTick : Prop :=
  ∀ (s : State) (l : Level), s.rx.rxState = .clockSync → s.lineIn l = s.rx.lastBit → 4 ≤ s.rx.numPulses.toNat →
    s.rx.systimeNextPulse = s.rx.systimePrevPulse + s.rx.avgPulseTime →
    ticksSince (BitVec.ofNat 32 s.nextNow) s.rx.systimePrevPulse =
      s.rx.avgPulseTime.toNat + s.rx.avgPulseTime.toNat / 2 + 1 →
    ∃ t, exec (.tick l) s = .next t ∧ t.rx.rxState = .awaitFrame ∧
      ticksSince (t.now + 1) t.rx.systimeNextSample = 2

/-- Convergence on a board without loopback: from Waiting with the line low, four intervals of `T` ticks give `avgPulseTime = T`
(41_receiver.md R157, 95_test_vectors.md V-SRC-3). -/
def Obligations.FourEqualIntervalsGiveThatPeriod : Prop :=
  ∀ (s : State) (T : Nat), s.params.loopback = false → s.rx.rxState = .waiting → s.rx.lastBit = false →
    1 ≤ T → 4 * T < 2 ^ 32 →
    ∃ t, execAll ((stretch T [true, false, true, false] ++ [true]).map .tick) s = .next t ∧
      t.rx.rxState = .clockSync ∧ t.rx.numPulses = 4 ∧ t.rx.avgPulseTime.toNat = T ∧
      t.rx.systimeNextPulse.toNat = (t.now.toNat + T) % 2 ^ 32

/-- Threshold boundary: with four intervals in and the last transition at this tick, an idle gap of exactly `avg + avg div 2` stays
in ClockSync and one tick more enters AwaitFrame (41_receiver.md R145, 95_test_vectors.md V-SRC-4). -/
def Obligations.IdleGapAtThresholdStaysAndOneMoreExits : Prop :=
  ∀ s : State, s.params.loopback = false → s.rx.rxState = .clockSync → 4 ≤ s.rx.numPulses.toNat →
    s.rx.systimePrevPulse = s.now → s.rx.avgPulseTime.toNat + s.rx.avgPulseTime.toNat / 2 + 1 < 2 ^ 32 →
    (∃ t, execAll (List.replicate (s.rx.avgPulseTime.toNat + s.rx.avgPulseTime.toNat / 2) (.tick s.rx.lastBit)) s
        = .next t ∧ t.rx = s.rx) ∧
    (∃ t, execAll (List.replicate (s.rx.avgPulseTime.toNat + s.rx.avgPulseTime.toNat / 2 + 1) (.tick s.rx.lastBit)) s
        = .next t ∧ t.rx.rxState = .awaitFrame)

/-! ### Transfers -/

/-- Loopback transfer: a rising control edge under the default CTRL_MAP with the line low, then `8 n + 25` TICKs or more, leaves the
receiver Complete with the staged payload of `n` bytes recorded up to its first `0x00` byte or RX_CAP bytes, whichever ends it first,
and counted in `bitBufferPos`; with no `0x00` and `n <= RX_CAP` that is the whole payload (41_receiver.md R150, R157,
60_exceptions.md R214, R215, 70_reset_and_hazards.md R256). -/
def Obligations.LoopbackTransferRecordsThePayload : Prop :=
  ∀ (s : State) (ls : List Level), s.params.loopback = true → s.params.onRise = [.txStart, .rxInit] → s.params.Legal →
    s.tx.txOut = false → 8 * s.tx.stageLen.toNat + 25 ≤ ls.length →
    ∃ t, execAll (.ctrlRise :: ls.map .tick) s = .next t ∧ t.rx.rxState = .complete ∧
      t.rx.bitBuffer.bytes t.rx.bitBufferPos.toNat =
        ((s.tx.stage.bytes s.tx.stageLen.toNat).takeWhile (· != 0x00)).take s.params.rxCap.toNat

/-- Two-board transfer at any whole bit period `T`: the wave of a payload of `n` bytes, each level held `T` TICKs into a freshly
initialised receiver, then the line low, leaves the receiver Complete by TICK `(8 n + 23) T + T div 2 + 1` with the payload recorded up
to its first `0x00` byte or RX_CAP bytes (41_receiver.md R150, R157, 70_reset_and_hazards.md R256), inside the tick horizon of R253. -/
def Obligations.TwoBoardTransferRecordsThePayload : Prop :=
  ∀ (s : State) (bytes : List Byte) (T m : Nat), s.params.loopback = false → s.params.Legal → 1 ≤ T →
    (8 * bytes.length + 24) * T < 2 ^ 31 →
    (8 * bytes.length + 23) * T + T / 2 + 1 ≤ (8 * bytes.length + 17) * T + m →
    ∃ t, execAll (.rxInit :: (stretch T (wave bytes) ++ List.replicate m false).map .tick) s = .next t ∧
      t.rx.rxState = .complete ∧
      t.rx.bitBuffer.bytes t.rx.bitBufferPos.toNat = (bytes.takeWhile (· != 0x00)).take s.params.rxCap.toNat

/-- In a link, which has LOOPBACK false on B: each instance's state is touched only by its own events and B stays out of loopback; a
TICK of B runs its receiver step on the level of A's `txOut` at that moment, for every L that waits in its word; any other event of B,
and every event of A, is a step of that instance as it stands (60_exceptions.md R222, 42_host_and_control.md R181). That the waiting
word's L is overwritten is DESIGN CHOICE (log 12), and so is the level of A's own TICKs (log 19). -/
def Obligations.LinkTickOfBSamplesTheOutputOfA : Prop :=
  (∀ (who : Board) (k k' : Link), k.step who = .next k' →
    (who = .a → k'.b = k.b) ∧ (who = .b → k'.a = k.a) ∧ (k.Legal → k'.Legal)) ∧
  (∀ (k : Link) (l : Level) (rest : List Word), k.Legal → k.b.events = encode (.tick l) :: rest →
    ∃ b', exec (.tick k.a.tx.txOut) { k.b with events := rest, output := none } = .next b' ∧
      k.step .b = .next { k with b := b' } ∧
      b'.rx = Rx.step k.b.params.rxCap k.b.rx (BitVec.ofNat 32 k.b.nextNow) k.a.tx.txOut) ∧
  (∀ k : Link, (k.b.events = [] ∨ ∃ w rest, k.b.events = w :: rest ∧ ∀ l, decode w ≠ .event (.tick l)) →
    ∃ b', step k.b = .next b' ∧ k.step .b = .next { k with b := b' }) ∧
  (∀ k : Link, ∃ a', step k.a = .next a' ∧ k.step .a = .next { k with a := a' })

/-! ### Tick, control edges, host events -/

/-- TICK: the counter first, then the receiver step on the level sampled before the transmitter writes, then the transmitter step;
a next state in every state (42_host_and_control.md R180, R181, 20_memory.md R72). -/
def Obligations.TickStepsCounterThenReceiverThenTransmitter : Prop :=
  ∀ (s : State) (l : Level), exec (.tick l) s = .next { s with
    now := BitVec.ofNat 32 s.nextNow
    rx := Rx.step s.params.rxCap s.rx (BitVec.ofNat 32 s.nextNow) (s.lineIn l)
    tx := s.tx.tick }

/-- The tick counter changes only by TICK, by one modulo 2^32, and by SYS_RESET, to 0 (10_state.md R21). -/
def Obligations.NowIsWrittenOnlyByTickAndReset : Prop :=
  ∀ (i : Instr) (s t : State), exec i s = .next t →
    (∃ l, i = .tick l ∧ t.now.toNat = (s.now.toNat + 1) % 2 ^ 32) ∨ (i = .sysReset ∧ t.now = 0) ∨
    ((∀ l, i ≠ .tick l) ∧ i ≠ .sysReset ∧ t.now = s.now)

/-- CTRL_RISE performs the CTRL_MAP sequence as its events would one after another, and under the default map is TX_START then
RX_INIT: both flags false, the counter unchanged (42_host_and_control.md R182). -/
def Obligations.CtrlRisePerformsTheMappedSequence : Prop :=
  ∀ s : State, exec .ctrlRise s = execAll (s.params.onRise.map CtrlOp.toEvent) s ∧
    (∃ t, exec .ctrlRise s = .next t) ∧
    (s.params.onRise = defaultOnRise →
      exec .ctrlRise s = .next { s with
        tx := { s.tx with payload := s.tx.stage, payloadLen := s.tx.stageLen, txPhase := .preamble, bitPosition := 0 }
        rx := Rx.reset })

/-- CTRL_FALL under the default map is TX_STOP, the receiver unchanged (42_host_and_control.md R183). That under any other map it performs
its CTRL_MAP sequence as CTRL_RISE does is DEDUCED from 00_scope.md R14 and R182 (log 14). -/
def Obligations.CtrlFallPerformsTheMappedSequence : Prop :=
  ∀ s : State, exec .ctrlFall s = execAll (s.params.onFall.map CtrlOp.toEvent) s ∧
    (∃ t, exec .ctrlFall s = .next t) ∧
    (s.params.onFall = defaultOnFall →
      exec .ctrlFall s = .next { s with tx := { s.tx with txPhase := .idle, bitPosition := 0, txOut := false } })

/-- WR_STAGE: the byte at its index, every other staged byte and everything else unchanged; an index outside STAGE is refused
(42_host_and_control.md R184). -/
def Obligations.WrStageWritesOneStagedByte : Prop :=
  ∀ (s : State) (idx : Idx) (data : Byte), s.tx.stage.wf = true →
    (idx.toNat < s.params.txMax.toNat → ∃ t, exec (.wrStage idx data) s = .next t ∧
      t.tx.stage.read idx.toNat = data ∧ (∀ a, a ≠ idx.toNat → t.tx.stage.read a = s.tx.stage.read a) ∧
      t = { s with tx := { s.tx with stage := t.tx.stage } }) ∧
    (s.params.txMax.toNat ≤ idx.toNat → exec (.wrStage idx data) s = .refused (.outsideContract .index))

/-- WR_STAGE_LEN: the length, up to TX_MAX included; a longer one is refused (42_host_and_control.md R185). -/
def Obligations.WrStageLenSetsTheStagedLength : Prop :=
  ∀ (s : State) (n : Idx),
    (n.toNat ≤ s.params.txMax.toNat → exec (.wrStageLen n) s = .next { s with tx := { s.tx with stageLen := n } }) ∧
    (s.params.txMax.toNat < n.toNat → exec (.wrStageLen n) s = .refused (.outsideContract .len))

/-- RD_REG: the register of 10_state.md R43 by number, zero-extended, nothing changed but the output; a reserved number is refused
(42_host_and_control.md R186). STATUS, RX_FRAME and CONFIG are named here by the model's functions, whose layouts are stated apart. -/
def Obligations.RdRegReturnsTheNumberedRegister : Prop :=
  ∀ (s : State) (reg : Idx),
    (reg.toNat < 0x00D → ∃ v : Word, exec (.rdReg reg) s = .next { s with output := some v } ∧
      (reg = 0x000 → v = s.status) ∧ (reg = 0x001 → v.toNat = s.now.toNat) ∧
      (reg = 0x002 → v.toNat = s.rx.pulseTimeTotal.toNat) ∧ (reg = 0x003 → v.toNat = s.rx.numPulses.toNat) ∧
      (reg = 0x004 → v.toNat = s.rx.avgPulseTime.toNat) ∧ (reg = 0x005 → v.toNat = s.rx.systimePrevPulse.toNat) ∧
      (reg = 0x006 → v.toNat = s.rx.systimeNextPulse.toNat) ∧ (reg = 0x007 → v.toNat = s.rx.systimeNextSample.toNat) ∧
      (reg = 0x008 → v = s.rx.frameReg) ∧ (reg = 0x009 → v.toNat = s.tx.bitPosition.toNat) ∧
      (reg = 0x00A → v.toNat = s.tx.payloadLen.toNat) ∧ (reg = 0x00B → v.toNat = s.tx.stageLen.toNat) ∧
      (reg = 0x00C → v = configReg s.params)) ∧
    (0x00D ≤ reg.toNat → exec (.rdReg reg) s = .refused (.outsideContract .regno))

/-- The layout of STATUS (10_state.md R44), the phase and the receiver state by their numbers: Idle 0, Preamble 1, Sync 2, Data 3,
Done 4, and Waiting 0, ClockSync 1, AwaitFrame 2, Receiving 3, Complete 4 (R22, R27). -/
def Obligations.StatusHoldsItsFieldsAtTheirBits : Prop :=
  ∀ s : State,
    ((s.tx.txPhase = .idle → s.status.extractLsb' 0 3 = 0) ∧ (s.tx.txPhase = .preamble → s.status.extractLsb' 0 3 = 1) ∧
      (s.tx.txPhase = .sync → s.status.extractLsb' 0 3 = 2) ∧ (s.tx.txPhase = .data → s.status.extractLsb' 0 3 = 3) ∧
      (s.tx.txPhase = .done → s.status.extractLsb' 0 3 = 4)) ∧
    ((s.rx.rxState = .waiting → s.status.extractLsb' 5 3 = 0) ∧ (s.rx.rxState = .clockSync → s.status.extractLsb' 5 3 = 1) ∧
      (s.rx.rxState = .awaitFrame → s.status.extractLsb' 5 3 = 2) ∧ (s.rx.rxState = .receiving → s.status.extractLsb' 5 3 = 3) ∧
      (s.rx.rxState = .complete → s.status.extractLsb' 5 3 = 4)) ∧
    s.status.getLsbD 3 = decide (s.tx.txPhase = .done) ∧ s.status.getLsbD 4 = s.tx.txOut ∧
    s.status.getLsbD 8 = decide (s.rx.rxState = .complete) ∧ s.status.getLsbD 9 = s.rx.lastBit ∧
    s.status.extractLsb' 10 6 = 0 ∧ s.status.extractLsb' 16 12 = s.rx.bitBufferPos ∧
    s.status.extractLsb' 28 3 = s.rx.bitBufferBit ∧ s.status.getLsbD 31 = false

/-- The layouts of RX_FRAME and CONFIG (10_state.md R45, R46), and CONFIG's constancy: no event changes the parameters. -/
def Obligations.FrameAndConfigRegistersHoldTheirFields : Prop :=
  (∀ r : Rx, r.frameReg.toNat = r.frameShiftRegister.toNat + r.frameBitPos.toNat * 2 ^ 8) ∧
  (∀ p : Params, (configReg p).toNat =
    p.rxCap.toNat + p.txMax.toNat * 2 ^ 12 + (if p.loopback then 2 ^ 24 else 0)) ∧
  (∀ (i : Instr) (s t : State), exec i s = .next t → t.params = s.params)

/-- RD_RXBUF in every receiver state: the current byte, zero-extended, nothing changed but the output; an index outside RXBUF is
refused (42_host_and_control.md R187). -/
def Obligations.RdRxbufReturnsTheCurrentByte : Prop :=
  ∀ (s : State) (idx : Idx),
    (idx.toNat < s.params.rxCap.toNat → ∃ v : Word, v.toNat = (s.rx.bitBuffer.read idx.toNat).toNat ∧
      exec (.rdRxbuf idx) s = .next { s with output := some v }) ∧
    (s.params.rxCap.toNat ≤ idx.toNat → exec (.rdRxbuf idx) s = .refused (.outsideContract .index))

/-- RD_STAGE: the staged byte, zero-extended, nothing changed but the output; an index outside STAGE is refused
(42_host_and_control.md R188). -/
def Obligations.RdStageReturnsTheStagedByte : Prop :=
  ∀ (s : State) (idx : Idx),
    (idx.toNat < s.params.txMax.toNat → ∃ v : Word, v.toNat = (s.tx.stage.read idx.toNat).toNat ∧
      exec (.rdStage idx) s = .next { s with output := some v }) ∧
    (s.params.txMax.toNat ≤ idx.toNat → exec (.rdStage idx) s = .refused (.outsideContract .index))

/-- Reads have no side effects and repeat with the same result, and the host's writes are idempotent (20_memory.md R67). -/
def Obligations.ReadsRepeatAndWritesAreIdempotent : Prop :=
  ∀ (s t : State) (idx : Idx) (data : Byte), s.tx.stage.wf = true →
    (∀ i ∈ [Instr.rdReg idx, .rdRxbuf idx, .rdStage idx], exec i s = .next t →
      t = { s with output := t.output } ∧ exec i t = .next t) ∧
    (∀ i ∈ [Instr.wrStage idx data, .wrStageLen idx], exec i s = .next t → exec i t = .next t)

/-! ### Reset and invariants -/

/-- SYS_RESET, from every state: the counter 0, every staged and payload byte 0, both lengths 0, Idle, the line low, the receiver as
RX_INIT leaves it, both flags false, STATUS 0; the parameters and the refusal mark unchanged (70_reset_and_hazards.md R240). -/
def Obligations.SysResetGivesEveryElementItsResetValue : Prop :=
  ∀ s : State, ∃ t u, exec .sysReset s = .next t ∧ exec .rxInit s = .next u ∧ t.rx = u.rx ∧
    t = { s with now := 0, tx := t.tx, rx := t.rx } ∧
    (∀ k, t.tx.stage.read k = 0x00 ∧ t.tx.payload.read k = 0x00) ∧ t.tx.stageLen = 0 ∧ t.tx.payloadLen = 0 ∧
    t.tx.txPhase = .idle ∧ t.tx.bitPosition = 0 ∧ t.tx.txOut = false ∧ t.tx.isDone = false ∧
    t.rx.rxComplete = false ∧ t.status = 0

/-- The power-on state is the state SYS_RESET produces: Idle and Waiting, for every choice of the parameters
(70_reset_and_hazards.md R241). The empty queue, output and mark are the model's own (log 3, log 4, log 5). -/
def Obligations.PowerOnStateIsTheSysResetState : Prop :=
  (∀ s : State, exec .sysReset s =
    .next { State.resetWith s.params with refusalMark := s.refusalMark, output := s.output, events := s.events }) ∧
  State.reset.tx.txPhase = .idle ∧ State.reset.rx.rxState = .waiting ∧ State.reset.now = 0

/-- The structural invariant holds in the power-on state for every legal choice of the parameters, State.reset's among them
(10_state.md R49, R50). -/
def Obligations.InvariantHoldsAtPowerOn : Prop :=
  (∀ p : Params, p.Legal → (State.resetWith p).Inv) ∧ State.reset.Inv

/-- Every step keeps the structural invariant: buffers canonical and in range, lengths within TX_MAX, the buffer invariant R49, the
transmitter invariant R50, the frame count at most 8 (10_state.md R24, R25, R36, R49, R50). -/
def Obligations.EveryStepKeepsTheInvariant : Prop :=
  ∀ s s' : State, s.Inv → step s = .next s' → s'.Inv

/-- The estimator invariant R48 is kept by every event, while a TICK stays inside the tick horizon (10_state.md R48, log 13). -/
def Obligations.EveryEventKeepsTheEstimatorInvariant : Prop :=
  ∀ (i : Instr) (s t : State), s.rx.EstimatorOk → s.NextTickInHorizon → exec i s = .next t → t.rx.EstimatorOk

/-! ### Event programs -/

/-- SEND stages the bytes and their number and starts a session with them (30_encoding.md R92): with at most TX_MAX bytes, the session's
payload is those bytes. -/
def Obligations.SendPseudoEventStartsASessionWithItsBytes : Prop :=
  ∀ (s : State) (bytes : List Byte), s.tx.stage.wf = true → bytes.length ≤ s.params.txMax.toNat →
    ∃ t, execAll (Command.send bytes).expand s = .next t ∧
      t.tx.payload.bytes t.tx.payloadLen.toNat = bytes ∧ t.tx.txPhase = .preamble ∧ t.tx.bitPosition = 0 ∧
      t.rx = s.rx ∧ t.now = s.now
end

