-- ==== Sys2Proof/Laws/Decode.lean ====
section
/-! SUPPORT. The fields of a packed event word (30_encoding.md R84). -/

namespace Sys2Proof

section Pack
variable (op : BitVec 4) (idx : Idx) (low : Byte)

@[simp] theorem opField_packFields : opField (packFields op idx low) = op := by
  apply BitVec.eq_of_getLsbD_eq
  intro k hk
  simp only [opField, packFields, BitVec.getLsbD_extractLsb', BitVec.getLsbD_append]
  interval_cases k <;> simp

@[simp] theorem idxField_packFields : idxField (packFields op idx low) = idx := by
  apply BitVec.eq_of_getLsbD_eq
  intro k hk
  simp only [idxField, packFields, BitVec.getLsbD_extractLsb', BitVec.getLsbD_append]
  interval_cases k <;> simp

@[simp] theorem dataField_packFields : dataField (packFields op idx low) = low := by
  apply BitVec.eq_of_getLsbD_eq
  intro k hk
  simp only [dataField, packFields, BitVec.getLsbD_extractLsb', BitVec.getLsbD_append]
  interval_cases k <;> simp

@[simp] theorem levelField_packFields : levelField (packFields op idx low) = low.getLsbD 0 := by
  simp only [levelField, packFields, BitVec.getLsbD_append]
  simp

/-- A word whose reserved bits are 0 is packed from its own fields. -/
theorem packFields_fields (w : Word) (h : w &&& 0x0000FF00 = 0) : packFields (opField w) (idxField w) (dataField w) = w := by
  apply BitVec.eq_of_getLsbD_eq
  intro k hk
  have hb := congrArg (fun v : Word => v.getLsbD k) h
  simp only [BitVec.getLsbD_and] at hb
  simp only [packFields, opField, idxField, dataField, BitVec.getLsbD_append, BitVec.getLsbD_extractLsb']
  interval_cases k <;> simp_all

/-- Bits 15:8 of a packed word are 0. -/
theorem packFields_and_mid : packFields op idx low &&& 0x0000FF00 = 0 := by
  apply BitVec.eq_of_getLsbD_eq
  intro k hk
  simp only [packFields, BitVec.getLsbD_and, BitVec.getLsbD_append]
  interval_cases k <;> simp

/-- Bits 15:0 of a word packed without data are 0. -/
theorem packFields_and_low : packFields op idx 0 &&& 0x0000FFFF = 0 := by
  apply BitVec.eq_of_getLsbD_eq
  intro k hk
  simp only [packFields, BitVec.getLsbD_and, BitVec.getLsbD_append]
  interval_cases k <;> simp

end Pack

section Decoder
variable {w : Word} {f : Format} {i : Instr}

/-- The decoder gives the event OP selects when the format's reserved bits are 0. -/
theorem decode_event_of (hf : formatOf (opField w) = some f) (hi : eventOf (opField w) w = some i)
    (hm : w &&& f.reservedMask = 0) : decode w = .event i := by
  simp only [decode, hf, hi, if_pos hm]

/-- The decoder gives an event exactly when OP selects it and the format's reserved bits are 0. -/
theorem decode_event_iff : decode w = .event i ↔
    ∃ f, formatOf (opField w) = some f ∧ eventOf (opField w) w = some i ∧ w &&& f.reservedMask = 0 := by
  constructor
  · intro h
    unfold decode at h
    split at h
    · rename_i f' i' hf hi
      split_ifs at h with hm
      exact ⟨f', hf, hi.trans (congrArg some (Decoded.event.inj h)), hm⟩
    · cases h
  · rintro ⟨f, hf, hi, hm⟩
    exact decode_event_of hf hi hm

end Decoder

end Sys2Proof
end

