-- ==== Sys2Proof/Laws/State.lean ====
section
/-! SUPPORT. One lemma per field and update, true by rfl: the updates of the state that the meanings share. -/

namespace Sys2Proof.Machine

section WithTx
variable (s : State) (t : Tx)
@[simp] theorem State.withTx_tx : (s.withTx t).tx = t := rfl
@[simp] theorem State.withTx_rx : (s.withTx t).rx = s.rx := rfl
@[simp] theorem State.withTx_now : (s.withTx t).now = s.now := rfl
@[simp] theorem State.withTx_params : (s.withTx t).params = s.params := rfl
@[simp] theorem State.withTx_refusalMark : (s.withTx t).refusalMark = s.refusalMark := rfl
@[simp] theorem State.withTx_output : (s.withTx t).output = s.output := rfl
@[simp] theorem State.withTx_events : (s.withTx t).events = s.events := rfl
end WithTx

section WithRx
variable (s : State) (r : Rx)
@[simp] theorem State.withRx_tx : (s.withRx r).tx = s.tx := rfl
@[simp] theorem State.withRx_rx : (s.withRx r).rx = r := rfl
@[simp] theorem State.withRx_now : (s.withRx r).now = s.now := rfl
@[simp] theorem State.withRx_params : (s.withRx r).params = s.params := rfl
@[simp] theorem State.withRx_refusalMark : (s.withRx r).refusalMark = s.refusalMark := rfl
@[simp] theorem State.withRx_output : (s.withRx r).output = s.output := rfl
@[simp] theorem State.withRx_events : (s.withRx r).events = s.events := rfl
end WithRx

section Ret
variable (s : State) (v : Word)
@[simp] theorem State.ret_tx : (s.ret v).tx = s.tx := rfl
@[simp] theorem State.ret_rx : (s.ret v).rx = s.rx := rfl
@[simp] theorem State.ret_now : (s.ret v).now = s.now := rfl
@[simp] theorem State.ret_params : (s.ret v).params = s.params := rfl
@[simp] theorem State.ret_refusalMark : (s.ret v).refusalMark = s.refusalMark := rfl
@[simp] theorem State.ret_output : (s.ret v).output = some v := rfl
@[simp] theorem State.ret_events : (s.ret v).events = s.events := rfl
end Ret

section RecordRefusal
variable (s : State) (c : RefCode)
/-- Recording a refusal is an update of the mark alone. -/
theorem State.recordRefusal_eq : s.recordRefusal c = { s with refusalMark := some (s.refusalMark.getD c) } := by
  unfold State.recordRefusal
  split <;> rename_i h
  · rw [h, Option.getD_some, ← h]
  · rw [h, Option.getD_none]
@[simp] theorem State.recordRefusal_tx : (s.recordRefusal c).tx = s.tx := by rw [State.recordRefusal_eq]
@[simp] theorem State.recordRefusal_rx : (s.recordRefusal c).rx = s.rx := by rw [State.recordRefusal_eq]
@[simp] theorem State.recordRefusal_now : (s.recordRefusal c).now = s.now := by rw [State.recordRefusal_eq]
@[simp] theorem State.recordRefusal_params : (s.recordRefusal c).params = s.params := by rw [State.recordRefusal_eq]
@[simp] theorem State.recordRefusal_refusalMark :
    (s.recordRefusal c).refusalMark = some (s.refusalMark.getD c) := by rw [State.recordRefusal_eq]
@[simp] theorem State.recordRefusal_output : (s.recordRefusal c).output = s.output := by rw [State.recordRefusal_eq]
@[simp] theorem State.recordRefusal_events : (s.recordRefusal c).events = s.events := by rw [State.recordRefusal_eq]
end RecordRefusal

section Tick
variable (s : State) (l : Level)
@[simp] theorem State.tick_now : (s.tick l).now = addW s.now 1 := rfl
@[simp] theorem State.tick_rx :
    (s.tick l).rx = Rx.step s.params.rxCap s.rx (addW s.now 1) (sample s.params.loopback s.tx.txOut l) := rfl
@[simp] theorem State.tick_tx : (s.tick l).tx = s.tx.tick := rfl
@[simp] theorem State.tick_params : (s.tick l).params = s.params := rfl
@[simp] theorem State.tick_refusalMark : (s.tick l).refusalMark = s.refusalMark := rfl
@[simp] theorem State.tick_output : (s.tick l).output = s.output := rfl
@[simp] theorem State.tick_events : (s.tick l).events = s.events := rfl
end Tick

/-- RX_INIT leaves the reset receiver, whatever was there. -/
@[simp] theorem Rx.init_eq_reset (r : Rx) : r.init = Rx.reset := rfl

/-- SYS_RESET leaves the reset transmitter, whatever was there. -/
@[simp] theorem Tx.sysReset_eq_reset (t : Tx) : t.sysReset = Tx.reset := rfl

@[simp] theorem CtrlOp.apply_params (o : CtrlOp) (s : State) : (CtrlOp.apply o s).params = s.params := by cases o <;> rfl
@[simp] theorem CtrlOp.apply_now (o : CtrlOp) (s : State) : (CtrlOp.apply o s).now = s.now := by cases o <;> rfl
@[simp] theorem CtrlOp.apply_refusalMark (o : CtrlOp) (s : State) :
    (CtrlOp.apply o s).refusalMark = s.refusalMark := by cases o <;> rfl
@[simp] theorem CtrlOp.apply_output (o : CtrlOp) (s : State) : (CtrlOp.apply o s).output = s.output := by cases o <;> rfl
@[simp] theorem CtrlOp.apply_events (o : CtrlOp) (s : State) : (CtrlOp.apply o s).events = s.events := by cases o <;> rfl

/-- A control sequence changes nothing but the two halves. -/
theorem ctrlSeq_frame (os : List CtrlOp) (s : State) :
    ctrlSeq os s = { s with tx := (ctrlSeq os s).tx, rx := (ctrlSeq os s).rx } := by
  induction os generalizing s with
  | nil => rfl
  | cons o os ih =>
    have h := ih (CtrlOp.apply o s)
    rw [CtrlOp.apply_params, CtrlOp.apply_now, CtrlOp.apply_refusalMark, CtrlOp.apply_output,
      CtrlOp.apply_events] at h
    simpa [ctrlSeq] using h

/-- A property of the state that each operation of CTRL_MAP keeps is kept by every sequence. -/
theorem ctrlSeq_induct {P : State → Prop} (h : ∀ o s, P s → P (CtrlOp.apply o s)) (os : List CtrlOp) (s : State)
    (hs : P s) : P (ctrlSeq os s) := by
  induction os generalizing s with
  | nil => exact hs
  | cons o os ih => exact ih _ (h o s hs)

end Sys2Proof.Machine
end

