-- ==== Sys2Proof/Laws/Exec.lean ====
section
/-! SUPPORT. What each event's meaning answers when it answers a next state: one lemma per meaning, for the provers to cite
instead of unfolding `exec`. -/

namespace Sys2Proof.Machine

section Exec
variable (s t : State)

@[simp] theorem exec_tick (l : Level) : exec (.tick l) s = .next (s.tick l) := rfl
@[simp] theorem exec_txStart : exec .txStart s = .next (s.withTx s.tx.start) := rfl
@[simp] theorem exec_txStop : exec .txStop s = .next (s.withTx s.tx.stop) := rfl
@[simp] theorem exec_rxInit : exec .rxInit s = .next (s.withRx Rx.reset) := rfl
@[simp] theorem exec_ctrlRise : exec .ctrlRise s = .next (ctrlSeq s.params.onRise s) := rfl
@[simp] theorem exec_ctrlFall : exec .ctrlFall s = .next (ctrlSeq s.params.onFall s) := rfl
@[simp] theorem exec_sysReset : exec .sysReset s = .next { s with now := 0, tx := Tx.reset, rx := Rx.reset } := rfl

theorem exec_wrStage_of_lt {idx : Idx} (h : idx.toNat < s.params.txMax.toNat) (data : Byte) :
    exec (.wrStage idx data) s = .next (s.withTx { s.tx with stage := s.tx.stage.write idx.toNat data }) :=
  if_neg (not_le.2 h)

theorem exec_wrStage_of_le {idx : Idx} (h : s.params.txMax.toNat ≤ idx.toNat) (data : Byte) :
    exec (.wrStage idx data) s = .refused (.outsideContract .index) := if_pos h

theorem exec_wrStageLen_of_le {n : Idx} (h : n.toNat ≤ s.params.txMax.toNat) :
    exec (.wrStageLen n) s = .next (s.withTx { s.tx with stageLen := n }) := if_neg (not_lt.2 h)

theorem exec_wrStageLen_of_lt {n : Idx} (h : s.params.txMax.toNat < n.toNat) :
    exec (.wrStageLen n) s = .refused (.outsideContract .len) := if_pos h

theorem exec_rdRxbuf_of_lt {idx : Idx} (h : idx.toNat < s.params.rxCap.toNat) :
    exec (.rdRxbuf idx) s = .next (s.ret (zext32 (s.rx.bitBuffer.read idx.toNat))) := if_neg (not_le.2 h)

theorem exec_rdRxbuf_of_le {idx : Idx} (h : s.params.rxCap.toNat ≤ idx.toNat) :
    exec (.rdRxbuf idx) s = .refused (.outsideContract .index) := if_pos h

theorem exec_rdStage_of_lt {idx : Idx} (h : idx.toNat < s.params.txMax.toNat) :
    exec (.rdStage idx) s = .next (s.ret (zext32 (s.tx.stage.read idx.toNat))) := if_neg (not_le.2 h)

theorem exec_rdStage_of_le {idx : Idx} (h : s.params.txMax.toNat ≤ idx.toNat) :
    exec (.rdStage idx) s = .refused (.outsideContract .index) := if_pos h

/-- A register number below 0x00D names a register, and no other does. -/
theorem State.readReg_isSome_iff (n : Nat) : (s.readReg n).isSome = true ↔ n < numRegs := by
  constructor
  · intro h
    by_contra hn
    unfold State.readReg at h
    split at h <;> simp_all [numRegs]
  · intro h
    simp only [numRegs] at h
    interval_cases n <;> rfl

theorem State.readReg_eq_none (n : Nat) (h : numRegs ≤ n) : s.readReg n = none := by
  have := (s.readReg_isSome_iff n).not.2 (not_lt.2 h)
  simpa using this

theorem exec_rdReg_of_le {r : Idx} (h : numRegs ≤ r.toNat) :
    exec (.rdReg r) s = .refused (.outsideContract .regno) := by
  simp only [exec, execRdReg, s.readReg_eq_none _ h, refuse]

theorem exec_rdReg_of_some {r : Idx} {v : Word} (h : s.readReg r.toNat = some v) :
    exec (.rdReg r) s = .next (s.ret v) := by simp only [exec, execRdReg, h]

theorem exec_rdReg_of_lt {r : Idx} (h : r.toNat < numRegs) : ∃ v, s.readReg r.toNat = some v ∧
    exec (.rdReg r) s = .next (s.ret v) := by
  obtain ⟨v, hv⟩ := Option.isSome_iff_exists.1 ((s.readReg_isSome_iff r.toNat).2 h)
  exact ⟨v, hv, exec_rdReg_of_some s hv⟩

variable {s t}

theorem exec_wrStage_next {idx : Idx} {data : Byte} (h : exec (.wrStage idx data) s = .next t) :
    idx.toNat < s.params.txMax.toNat ∧ t = s.withTx { s.tx with stage := s.tx.stage.write idx.toNat data } := by
  rcases lt_or_ge idx.toNat s.params.txMax.toNat with hl | hl
  · rw [exec_wrStage_of_lt s hl] at h
    exact ⟨hl, (Host.Outcome.next.inj h).symm⟩
  · rw [exec_wrStage_of_le s hl] at h
    cases h

theorem exec_wrStageLen_next {n : Idx} (h : exec (.wrStageLen n) s = .next t) :
    n.toNat ≤ s.params.txMax.toNat ∧ t = s.withTx { s.tx with stageLen := n } := by
  rcases le_or_gt n.toNat s.params.txMax.toNat with hl | hl
  · rw [exec_wrStageLen_of_le s hl] at h
    exact ⟨hl, (Host.Outcome.next.inj h).symm⟩
  · rw [exec_wrStageLen_of_lt s hl] at h
    cases h

theorem exec_rdReg_next {r : Idx} (h : exec (.rdReg r) s = .next t) :
    ∃ v, s.readReg r.toNat = some v ∧ t = s.ret v := by
  rcases lt_or_ge r.toNat numRegs with hl | hl
  · obtain ⟨v, hv, he⟩ := exec_rdReg_of_lt s hl
    rw [he] at h
    exact ⟨v, hv, (Host.Outcome.next.inj h).symm⟩
  · rw [exec_rdReg_of_le s hl] at h
    cases h

theorem exec_rdRxbuf_next {idx : Idx} (h : exec (.rdRxbuf idx) s = .next t) :
    idx.toNat < s.params.rxCap.toNat ∧ t = s.ret (zext32 (s.rx.bitBuffer.read idx.toNat)) := by
  rcases lt_or_ge idx.toNat s.params.rxCap.toNat with hl | hl
  · rw [exec_rdRxbuf_of_lt s hl] at h
    exact ⟨hl, (Host.Outcome.next.inj h).symm⟩
  · rw [exec_rdRxbuf_of_le s hl] at h
    cases h

theorem exec_rdStage_next {idx : Idx} (h : exec (.rdStage idx) s = .next t) :
    idx.toNat < s.params.txMax.toNat ∧ t = s.ret (zext32 (s.tx.stage.read idx.toNat)) := by
  rcases lt_or_ge idx.toNat s.params.txMax.toNat with hl | hl
  · rw [exec_rdStage_of_lt s hl] at h
    exact ⟨hl, (Host.Outcome.next.inj h).symm⟩
  · rw [exec_rdStage_of_le s hl] at h
    cases h

/-- The five ways an event can touch the state, each with all it changes: a tick; the two halves (start, stop, init, control edges);
the staging buffer and its length; the output; SYS_RESET. -/
theorem exec_next_shape {i : Instr} (h : exec i s = .next t) :
    (∃ l, i = .tick l ∧ t = s.tick l) ∨
    (i ∈ [Instr.txStart, .txStop, .rxInit, .ctrlRise, .ctrlFall] ∧ t = { s with tx := t.tx, rx := t.rx }) ∨
    (∃ m n, ((∃ idx d, i = .wrStage idx d) ∨ ∃ k, i = .wrStageLen k) ∧
      t = { s with tx := { s.tx with stage := m, stageLen := n } }) ∨
    (∃ v, ((∃ r, i = .rdReg r) ∨ (∃ k, i = .rdRxbuf k) ∨ ∃ k, i = .rdStage k) ∧ t = s.ret v) ∨
    (i = .sysReset ∧ t = { s with now := 0, tx := Tx.reset, rx := Rx.reset }) := by
  cases i with
  | tick l => exact .inl ⟨l, rfl, (Host.Outcome.next.inj h).symm⟩
  | txStart => cases h; exact .inr (.inl ⟨by simp, rfl⟩)
  | txStop => cases h; exact .inr (.inl ⟨by simp, rfl⟩)
  | rxInit => cases h; exact .inr (.inl ⟨by simp, rfl⟩)
  | ctrlRise => cases h; exact .inr (.inl ⟨by simp, ctrlSeq_frame _ _⟩)
  | ctrlFall => cases h; exact .inr (.inl ⟨by simp, ctrlSeq_frame _ _⟩)
  | wrStage idx d => exact .inr (.inr (.inl ⟨_, _, .inl ⟨idx, d, rfl⟩, (exec_wrStage_next h).2⟩))
  | wrStageLen k => exact .inr (.inr (.inl ⟨_, _, .inr ⟨k, rfl⟩, (exec_wrStageLen_next h).2⟩))
  | rdReg r => obtain ⟨v, -, rfl⟩ := exec_rdReg_next h; exact .inr (.inr (.inr (.inl ⟨v, .inl ⟨r, rfl⟩, rfl⟩)))
  | rdRxbuf k => obtain ⟨-, rfl⟩ := exec_rdRxbuf_next h; exact .inr (.inr (.inr (.inl ⟨_, .inr (.inl ⟨k, rfl⟩), rfl⟩)))
  | rdStage k => obtain ⟨-, rfl⟩ := exec_rdStage_next h; exact .inr (.inr (.inr (.inl ⟨_, .inr (.inr ⟨k, rfl⟩), rfl⟩)))
  | sysReset => cases h; exact .inr (.inr (.inr (.inr ⟨rfl, rfl⟩)))

end Exec

end Sys2Proof.Machine
end

