-- ==== Sys2Proof/Laws/Run.lean ====
section
/-! SUPPORT. Runs of events, and what one step does, said once. -/

namespace Sys2Proof.Machine

@[simp] theorem execAll_nil (s : State) : execAll [] s = .next s := rfl

theorem execAll_cons_of_next {i : Instr} {s s' : State} (h : exec i s = .next s') (is : List Instr) :
    execAll (i :: is) s = execAll is s' := by
  simp only [execAll, h]

/-- A run of a run. -/
theorem execAll_append (is js : List Instr) {s s' : State} (h : execAll is s = .next s') :
    execAll (is ++ js) s = execAll js s' := by
  induction is generalizing s with
  | nil => cases h; rfl
  | cons i is ih =>
    cases he : exec i s with
    | next t =>
      rw [execAll_cons_of_next he] at h
      rw [List.cons_append, execAll_cons_of_next he]
      exact ih h
    | fault f => simp only [execAll, he] at h; cases h
    | refused r => simp only [execAll, he] at h; cases h

/-- A run of TICKs always completes: it folds the tick over the levels. -/
theorem execAll_ticks (ls : List Level) (s : State) : execAll (ls.map .tick) s = .next (ls.foldl State.tick s) := by
  induction ls generalizing s with
  | nil => rfl
  | cons l ls ih => rw [List.map_cons, execAll_cons_of_next (exec_tick s l), ih]; rfl

@[simp] theorem foldl_tick_params (ls : List Level) (s : State) : (ls.foldl State.tick s).params = s.params := by
  induction ls generalizing s with
  | nil => rfl
  | cons l ls ih => rw [List.foldl_cons, ih]; rfl

/-- The transmitter under TICKs: it reads no level. -/
theorem foldl_tick_tx (ls : List Level) (s : State) : (ls.foldl State.tick s).tx = (Tx.tick^[ls.length]) s.tx := by
  induction ls generalizing s with
  | nil => rfl
  | cons l ls ih => rw [List.foldl_cons, ih, List.length_cons, Function.iterate_succ_apply]; rfl

section Settle
variable (s t : State)

@[simp] theorem settle_next : settle s (.next t) = .next t := rfl
@[simp] theorem settle_refuse (c : RefCode) : settle s (refuse c) = .next (s.recordRefusal c) := rfl

end Settle

theorem takeWord_of_event {w : Word} {i : Instr} (h : decode w = .event i) (s : State) :
    takeWord w s = settle s (exec i s) := by simp only [takeWord, h]

theorem takeWord_of_refused {w : Word} {c : RefCode} (h : decode w = .refused c) (s : State) :
    takeWord w s = .next (s.recordRefusal c) := by simp only [takeWord, h]

theorem step_of_cons {s : State} {w : Word} {rest : List Word} (h : s.events = w :: rest) :
    step s = takeWord w (s.beginEvent rest) := by simp only [step, takeNextEvent, h]

/-- The next step after `withFetchWord` takes that word, with the queue as it was. -/
theorem step_withFetchWord (s : State) (nbits w : Nat) :
    step (s.withFetchWord nbits w) = takeWord (BitVec.ofNat 32 (w % 2 ^ nbits)) (s.beginEvent s.events) := rfl

end Sys2Proof.Machine
end

