-- ==== Sys2Proof/Laws/Link.lean ====
section
/-! SUPPORT. Everything one event of a link can do, said once (60_exceptions.md R222). -/

namespace Sys2Proof.Machine

section Wired
variable (s : State) (l : Level)
@[simp] theorem State.wired_params : (s.wired l).params = s.params := by unfold State.wired; split <;> rfl
@[simp] theorem State.wired_now : (s.wired l).now = s.now := by unfold State.wired; split <;> rfl
@[simp] theorem State.wired_tx : (s.wired l).tx = s.tx := by unfold State.wired; split <;> rfl
@[simp] theorem State.wired_rx : (s.wired l).rx = s.rx := by unfold State.wired; split <;> rfl
@[simp] theorem State.wired_refusalMark : (s.wired l).refusalMark = s.refusalMark := by unfold State.wired; split <;> rfl
@[simp] theorem State.wired_output : (s.wired l).output = s.output := by unfold State.wired; split <;> rfl
end Wired

/-- A link's boards are wired so that B is out of loopback from power-on. -/
theorem Link.powerOn_legal (pa pb : Params) : (Link.powerOn pa pb).Legal := rfl

/-- The wire puts the line's level into a TICK word, whatever level stood there. -/
@[simp] theorem wireLevel_encode_tick (l l' : Level) : wireLevel l (encode (.tick l')) = encode (.tick l) := by
  cases l <;> cases l' <;> decide

/-- The wire leaves a word that is no TICK by its OP as it is. -/
theorem wireLevel_of_op_ne_zero {w : Word} (h : opField w ≠ 0) (l : Level) : wireLevel l w = w := by
  simp only [wireLevel, h, if_false]

/-- The wire changes no bit but bit 0. -/
theorem wireLevel_getLsbD (l : Level) (w : Word) {k : Nat} (hk : k ≠ 0) : (wireLevel l w).getLsbD k = w.getLsbD k := by
  unfold wireLevel
  split
  · by_cases hk' : k < 32
    · cases l <;> interval_cases k <;> simp at hk ⊢
    · rw [BitVec.getLsbD_of_ge _ _ (by omega), BitVec.getLsbD_of_ge _ _ (by omega)]
  · rfl

/-- A word that is no TICK decodes as before: the wire turns none into a TICK. -/
theorem decode_wireLevel {w : Word} (h : ∀ l, decode w ≠ .event (.tick l)) (l : Level) :
    decode (wireLevel l w) = decode w := by
  by_cases ho : opField w = 0
  · have he : opField (wireLevel l w) = 0 := by
      rw [← ho]
      apply BitVec.eq_of_getLsbD_eq
      intro k hk
      simp only [opField, BitVec.getLsbD_extractLsb', wireLevel_getLsbD l w (show 28 + k ≠ 0 by omega)]
    have hm : wireLevel l w &&& 0x0FFFFFFE = w &&& 0x0FFFFFFE := by
      apply BitVec.eq_of_getLsbD_eq
      intro k _
      rw [BitVec.getLsbD_and, BitVec.getLsbD_and]
      cases k with
      | zero => simp
      | succ k => rw [wireLevel_getLsbD l w (by omega)]
    have hw : w &&& 0x0FFFFFFE ≠ 0 := fun hz => h (levelField w) (by
      unfold decode; rw [ho]; exact if_pos hz)
    unfold decode
    rw [he, ho]
    exact (if_neg (hm ▸ hw)).trans (if_neg hw).symm
  · rw [wireLevel_of_op_ne_zero ho]

/-- Out of loopback the level sampled is the TICK's (42_host_and_control.md R181). -/
@[simp] theorem sample_of_not_loopback (o l : Level) : sample false o l = l := rfl

/-- What an event of a link is: a step of the board that takes it, B's with the line's level, and the other board as it was. -/
theorem Link.step_cases {who : Board} {k k' : Link} (h : k.step who = .next k') :
    (who = .a ∧ ∃ a', Sys2Proof.Machine.step k.a = .next a' ∧ k' = { k with a := a' }) ∨
    (who = .b ∧ ∃ b', Sys2Proof.Machine.step (k.b.wired k.a.tx.txOut) = .next b' ∧ k' = { k with b := b' }) := by
  cases who with
  | a =>
    simp only [Link.step] at h
    split at h <;> cases h
    exact .inl ⟨rfl, _, ‹_›, rfl⟩
  | b =>
    simp only [Link.step] at h
    split at h <;> cases h
    exact .inr ⟨rfl, _, ‹_›, rfl⟩

end Sys2Proof.Machine
end

