-- ==== Sys2Proof/Laws/Memory.lean ====
section
/-! SUPPORT. The laws of the buffers: read after write, and that every memory operation keeps the canonical form and the
index range. -/

namespace Sys2Proof.Machine

@[simp] theorem Mem.read_nil (i : Nat) : Mem.read [] i = 0 := rfl

@[simp] theorem Mem.wf_nil : Mem.wf [] = true := rfl

theorem Mem.wf_cons (c : Host.Cell) (m : Mem) :
    Mem.wf (c :: m) = true ↔ c.2 ≠ 0 ∧ (∀ d ∈ m, c.1 < d.1) ∧ Mem.wf m = true := by
  induction m generalizing c with
  | nil => simp [Mem.wf]
  | cons d m ih =>
    simp only [Mem.wf, Bool.and_eq_true, bne_iff_ne, ne_eq, decide_eq_true_eq, List.mem_cons, forall_eq_or_imp]
    constructor
    · rintro ⟨⟨h0, hlt⟩, hw⟩
      exact ⟨h0, ⟨hlt, fun e he => lt_trans hlt (((ih d).1 hw).2.1 e he)⟩, hw⟩
    · rintro ⟨h0, ⟨hlt, _⟩, hw⟩
      exact ⟨⟨h0, hlt⟩, hw⟩

/-- An index below every listed one is not listed, so it reads `0x00`. -/
theorem Mem.read_of_lt (m : Mem) (i : Nat) (h : ∀ d ∈ m, i < d.1) : m.read i = 0 := by
  induction m with
  | nil => rfl
  | cons c m ih =>
    have hc : c.1 ≠ i := by have := h c (by simp); omega
    simp [Mem.read, hc, ih fun d hd => h d (by simp [hd])]

theorem Mem.mem_write (m : Mem) (i : Nat) (v : Byte) (c : Host.Cell) (h : c ∈ m.write i v) : c ∈ m ∨ c = (i, v) := by
  induction m with
  | nil => by_cases hv : v = 0 <;> simp_all [Mem.write]
  | cons d m ih =>
    simp only [Mem.write] at h
    split_ifs at h <;> simp only [List.mem_cons] at h ⊢ <;> tauto

/-- A write keeps every index in range. -/
theorem Mem.below_write {m : Mem} {n : Nat} (h : m.Below n) {i : Nat} (hi : i < n) (v : Byte) : (m.write i v).Below n := by
  intro c hc
  rcases Mem.mem_write m i v c hc with hc | rfl
  · exact h c hc
  · exact hi

theorem Mem.below_nil (n : Nat) : Mem.Below [] n := by intro c hc; cases hc

/-- A write keeps the canonical form. -/
theorem Mem.wf_write {m : Mem} (h : m.wf = true) (i : Nat) (v : Byte) : (m.write i v).wf = true := by
  induction m with
  | nil =>
    simp only [Mem.write]
    split_ifs with hv
    · rfl
    · simpa [Mem.wf] using hv
  | cons c m ih =>
    obtain ⟨h0, hlt, hw⟩ := (Mem.wf_cons c m).1 h
    simp only [Mem.write]
    split_ifs with h1 h2 h2 h3
    · exact h
    · refine (Mem.wf_cons _ _).2 ⟨h2, ?_, h⟩
      intro d hd
      rcases List.mem_cons.1 hd with rfl | hd
      · exact h1
      · exact lt_trans h1 (hlt d hd)
    · exact hw
    · exact (Mem.wf_cons _ _).2 ⟨h3, fun d hd => h2 ▸ hlt d hd, hw⟩
    · refine (Mem.wf_cons _ _).2 ⟨h0, ?_, ih hw⟩
      intro d hd
      rcases Mem.mem_write m i v d hd with hd | rfl
      · exact hlt d hd
      · show c.1 < i
        omega

/-- A read after a write to the same index gives the byte written. -/
theorem Mem.read_write_same {m : Mem} (h : m.wf = true) (i : Nat) (v : Byte) : (m.write i v).read i = v := by
  induction m with
  | nil =>
    simp only [Mem.write]
    split_ifs with hv <;> simp [Mem.read, hv]
  | cons c m ih =>
    obtain ⟨-, hlt, hw⟩ := (Mem.wf_cons c m).1 h
    simp only [Mem.write]
    split_ifs with h1 h2 h2 h3
    · rw [h2]
      refine Mem.read_of_lt _ _ fun d hd => ?_
      rcases List.mem_cons.1 hd with rfl | hd
      · exact h1
      · exact lt_trans h1 (hlt d hd)
    · simp [Mem.read]
    · rw [h3, h2]; exact Mem.read_of_lt _ _ hlt
    · simp [Mem.read]
    · have hc : c.1 ≠ i := by omega
      simp [Mem.read, hc, ih hw]

/-- A write leaves every other index alone. -/
theorem Mem.read_write_other (m : Mem) {i a : Nat} (ha : a ≠ i) (v : Byte) : (m.write i v).read a = m.read a := by
  induction m with
  | nil =>
    simp only [Mem.write]
    split_ifs with hv <;> simp [Mem.read, Ne.symm ha]
  | cons c m ih =>
    simp only [Mem.write]
    split_ifs with h1 h2 h2 h3
    · rfl
    · simp [Mem.read, Ne.symm ha]
    · simp [Mem.read, ← h2, Ne.symm ha]
    · simp [Mem.read, ← h2, Ne.symm ha]
    · simp [Mem.read, ih]

/-- Canonical buffers that read alike are equal data. -/
theorem Mem.ext_of_wf {m m' : Mem} (h : m.wf = true) (h' : m'.wf = true) (hr : ∀ i, m.read i = m'.read i) : m = m' := by
  induction m generalizing m' with
  | nil =>
    cases m' with
    | nil => rfl
    | cons d m' =>
      have := hr d.1
      simp [Mem.read] at this
      exact absurd this.symm ((Mem.wf_cons d m').1 h').1
  | cons c m ih =>
    obtain ⟨h0, hlt, hw⟩ := (Mem.wf_cons c m).1 h
    cases m' with
    | nil =>
      have := hr c.1
      simp [Mem.read] at this
      exact absurd this h0
    | cons d m' =>
      obtain ⟨h0', hlt', hw'⟩ := (Mem.wf_cons d m').1 h'
      have hcd : c.1 = d.1 := by
        rcases lt_trichotomy c.1 d.1 with hl | he | hl
        · have h1 := hr c.1
          rw [Mem.read_of_lt (d :: m') c.1 (by
            intro e he
            rcases List.mem_cons.1 he with rfl | he
            · exact hl
            · exact lt_trans hl (hlt' e he))] at h1
          simp [Mem.read] at h1
          exact absurd h1 h0
        · exact he
        · have h1 := hr d.1
          rw [Mem.read_of_lt (c :: m) d.1 (by
            intro e he
            rcases List.mem_cons.1 he with rfl | he
            · exact hl
            · exact lt_trans hl (hlt e he))] at h1
          simp [Mem.read] at h1
          exact absurd h1.symm h0'
      have hval : c.2 = d.2 := by have := hr c.1; simpa [Mem.read, hcd] using this
      have htail : m = m' := by
        refine ih hw hw' fun i => ?_
        by_cases hi : c.1 = i
        · rw [Mem.read_of_lt m i (fun e he => hi ▸ hlt e he), Mem.read_of_lt m' i (fun e he => hi ▸ hcd ▸ hlt' e he)]
        · have := hr i
          simpa [Mem.read, hi, ← hcd] using this
      rw [htail, Prod.ext hcd hval]

theorem Mem.wf_writeIn {m : Mem} (h : m.wf = true) (n i : Nat) (v : Byte) : (Mem.writeIn n m i v).wf = true := by
  unfold Mem.writeIn
  split_ifs
  · exact Mem.wf_write h i v
  · exact h

theorem Mem.below_writeIn {m : Mem} {n : Nat} (h : m.Below n) (i : Nat) (v : Byte) : (Mem.writeIn n m i v).Below n := by
  unfold Mem.writeIn
  split_ifs with hi
  · exact Mem.below_write h hi v
  · exact h

theorem Mem.writeIn_eq_write {n i : Nat} (hi : i < n) (m : Mem) (v : Byte) : Mem.writeIn n m i v = m.write i v := by
  simp [Mem.writeIn, hi]

/-- The bytes of a buffer as a list: their number, and the byte at each place. -/
@[simp] theorem Mem.length_bytes (m : Mem) (n : Nat) : (m.bytes n).length = n := by simp [Mem.bytes]

theorem Mem.getElem_bytes (m : Mem) {n k : Nat} (h : k < (m.bytes n).length) : (m.bytes n)[k] = m.read k := by
  simp [Mem.bytes]

end Sys2Proof.Machine
end

