-- ==== Sys2Proof/Laws/Operands.lean ====
section
/-! SUPPORT. The arithmetic of the rules on naturals (00_scope.md R17), and the bit operations bit by bit. -/

namespace Sys2Proof.Machine

theorem toNat_addW (a b : Tick) : (addW a b).toNat = (a.toNat + b.toNat) % 2 ^ tickW := BitVec.toNat_add a b

theorem toNat_subW (a b : Tick) : (subW a b).toNat = ticksSince a b := by
  simp only [ticksSince, subW, BitVec.toNat_sub, tickW]
  congr 1
  omega

theorem due_iff (now t : Tick) : due now t = true ↔ ticksSince now t < 2 ^ 31 := by
  simp [due, toNat_subW, tickW]

theorem due_eq_false_iff (now t : Tick) : due now t = false ↔ 2 ^ 31 ≤ ticksSince now t := by
  rw [← Bool.not_eq_true, due_iff, not_lt]

theorem ticksSince_lt (a b : Tick) : ticksSince a b < 2 ^ tickW := Nat.mod_lt _ (by decide)

/-- The counter inside a TICK, as a tick value and on naturals. -/
theorem State.ofNat_nextNow (s : State) : BitVec.ofNat 32 s.nextNow = addW s.now 1 := by
  apply BitVec.eq_of_toNat_eq
  rw [toNat_addW]
  simp [State.nextNow, tickW]

theorem State.nextNow_eq (s : State) : s.nextNow = (addW s.now 1).toNat := by
  rw [toNat_addW]
  rfl

theorem State.lineIn_eq_sample (s : State) (l : Level) : s.lineIn l = sample s.params.loopback s.tx.txOut l := by
  unfold State.lineIn sample
  cases s.params.loopback <;> rfl

/-- The frame register after a shift: half the old value, and the sample at bit 7. -/
theorem toNat_shiftIn (f : Byte) (s : Level) : (shiftIn f s).toNat = f.toNat / 2 + if s then 128 else 0 := by
  decide +revert

theorem toNat_saturate8 (p : BitVec 4) : (saturate8 p).toNat = min (p.toNat + 1) 8 := by decide +revert

/-- A byte with one bit put: that bit is the sample, every other bit is as it was. -/
theorem getLsbD_putBit (b : Byte) (j : BitVec 3) (s : Level) (k : Nat) (hk : k < 8) :
    (putBit b j s).getLsbD k = if k = j.toNat then s else b.getLsbD k := by
  have h : ∀ (b : Byte) (j : BitVec 3) (s : Level), ∀ k < 8,
      (putBit b j s).getLsbD k = if k = j.toNat then s else b.getLsbD k := by decide
  exact h b j s k hk

end Sys2Proof.Machine
end

