-- ==== Sys2Proof/Laws/PerInstr.lean ====
section
/-! SUPPORT. Facts about every event as syntax, one lemma per constructor. -/

namespace Sys2Proof.Laws

namespace EncodeOpField

/-- The OP field of an event's word is its opcode (30_encoding.md R84, R85). -/
def Statement (i : Instr) : Prop := opField (encode i) = i.opcode

theorem tick (l : Level) : Statement (.tick l) := opField_packFields _ _ _
theorem txStart : Statement .txStart := opField_packFields _ _ _
theorem txStop : Statement .txStop := opField_packFields _ _ _
theorem rxInit : Statement .rxInit := opField_packFields _ _ _
theorem ctrlRise : Statement .ctrlRise := opField_packFields _ _ _
theorem ctrlFall : Statement .ctrlFall := opField_packFields _ _ _
theorem wrStage (idx : Idx) (data : Byte) : Statement (.wrStage idx data) := opField_packFields _ _ _
theorem wrStageLen (len : Idx) : Statement (.wrStageLen len) := opField_packFields _ _ _
theorem rdReg (reg : Idx) : Statement (.rdReg reg) := opField_packFields _ _ _
theorem rdRxbuf (idx : Idx) : Statement (.rdRxbuf idx) := opField_packFields _ _ _
theorem rdStage (idx : Idx) : Statement (.rdStage idx) := opField_packFields _ _ _
theorem sysReset : Statement .sysReset := opField_packFields _ _ _

end EncodeOpField

end Sys2Proof.Laws
end

