-- ==== Sys2Proof/Laws/Receiver.lean ====
section
/-! SUPPORT. Everything RX_STEP can do, said once (41_receiver.md R140 to R151). -/

namespace Sys2Proof.Machine

/-- BYTE_DONE ends the frame on a zero byte, counts the byte and ends it on a full buffer, or counts the byte and goes on. -/
theorem Rx.byteDone_cases (cap : Idx) (r : Rx) (b : Byte) :
    (b = 0x00 ∧ Rx.byteDone cap r b = { r with bitBufferBit := 0, rxState := .complete }) ∨
    (b ≠ 0x00 ∧ r.bitBufferPos + 1 = cap ∧
      Rx.byteDone cap r b = { r with bitBufferBit := 0, bitBufferPos := r.bitBufferPos + 1, rxState := .complete }) ∨
    (b ≠ 0x00 ∧ r.bitBufferPos + 1 ≠ cap ∧
      Rx.byteDone cap r b = { r with bitBufferBit := 0, bitBufferPos := r.bitBufferPos + 1 }) := by
  by_cases hb : b = 0x00
  · exact .inl ⟨hb, if_pos hb⟩
  · by_cases hc : r.bitBufferPos + 1 = cap
    · exact .inr (.inl ⟨hb, hc, (if_neg hb).trans (if_pos hc)⟩)
    · exact .inr (.inr ⟨hb, hc, (if_neg hb).trans (if_neg hc)⟩)

/-- In Receiving: nothing between sample instants; at one, the bit written and the cursor moved, or the byte ended. -/
theorem Rx.stepReceiving_cases (cap : Idx) (r : Rx) (now : Tick) (s : Level) :
    (due now r.systimeNextSample = false ∧ Rx.stepReceiving cap r now s = r) ∨
    (due now r.systimeNextSample = true ∧ ∃ b m,
      b = putBit (r.bitBuffer.read r.bitBufferPos.toNat) r.bitBufferBit s ∧
      m = Mem.writeIn cap.toNat r.bitBuffer r.bitBufferPos.toNat b ∧
      ((r.bitBufferBit ≠ 7 ∧ Rx.stepReceiving cap r now s =
          { r with systimeNextSample := addW r.systimeNextSample r.avgPulseTime, bitBuffer := m,
                   bitBufferBit := r.bitBufferBit + 1 }) ∨
       (r.bitBufferBit = 7 ∧ Rx.stepReceiving cap r now s =
          Rx.byteDone cap { r with systimeNextSample := addW r.systimeNextSample r.avgPulseTime, bitBuffer := m } b))) := by
  cases hd : due now r.systimeNextSample with
  | false => simp [Rx.stepReceiving, hd]
  | true =>
    refine .inr ⟨rfl, _, _, rfl, rfl, ?_⟩
    by_cases h7 : r.bitBufferBit = 7
    · exact .inr ⟨h7, (if_pos hd).trans (if_pos h7)⟩
    · exact .inl ⟨h7, (if_pos hd).trans (if_neg h7)⟩

/-- In AwaitFrame: nothing between sample instants; at one, the sample shifted in, with or without a match. -/
theorem Rx.stepAwaitFrame_cases (r : Rx) (now : Tick) (s : Level) :
    (due now r.systimeNextSample = false ∧ r.stepAwaitFrame now s = r) ∨
    (due now r.systimeNextSample = true ∧ shiftIn r.frameShiftRegister s ≠ 0x0F ∧
      r.stepAwaitFrame now s =
        { r with frameShiftRegister := shiftIn r.frameShiftRegister s, frameBitPos := saturate8 r.frameBitPos,
                 systimeNextSample := addW r.systimeNextSample r.avgPulseTime }) ∨
    (due now r.systimeNextSample = true ∧ shiftIn r.frameShiftRegister s = 0x0F ∧
      r.stepAwaitFrame now s =
        { r with frameShiftRegister := 0x0F, frameBitPos := saturate8 r.frameBitPos,
                 systimeNextSample := addW r.systimeNextSample r.avgPulseTime, rxState := .receiving,
                 bitBufferPos := 0, bitBufferBit := 0 }) := by
  cases hd : due now r.systimeNextSample with
  | false => simp [Rx.stepAwaitFrame, hd]
  | true =>
    by_cases hm : shiftIn r.frameShiftRegister s = 0x0F
    · exact .inr (.inr ⟨rfl, hm, ((if_pos hd).trans (if_pos hm)).trans (by rw [hm])⟩)
    · exact .inr (.inl ⟨rfl, hm, (if_pos hd).trans (if_neg hm)⟩)

/-- In ClockSync: a transition folds an interval in; no transition exits strictly above the threshold, or changes nothing. -/
theorem Rx.stepClockSync_cases (r : Rx) (now : Tick) (s : Level) :
    (s ≠ r.lastBit ∧ r.stepClockSync now s = r.stepTransition now s) ∨
    (s = r.lastBit ∧ 4 ≤ r.numPulses.toNat ∧ thr r.avgPulseTime.toNat < (subW now r.systimePrevPulse).toNat ∧
      r.stepClockSync now s = r.enterAwaitFrame) ∨
    (s = r.lastBit ∧ ¬ (4 ≤ r.numPulses.toNat ∧ thr r.avgPulseTime.toNat < (subW now r.systimePrevPulse).toNat) ∧
      r.stepClockSync now s = r) := by
  by_cases hs : s = r.lastBit
  · by_cases hx : 4 ≤ r.numPulses.toNat ∧ thr r.avgPulseTime.toNat < (subW now r.systimePrevPulse).toNat
    · simp [Rx.stepClockSync, Rx.stepIdle, hs, hx]
    · simp [Rx.stepClockSync, Rx.stepIdle, hs, hx]
  · simp [Rx.stepClockSync, hs]

/-- A transition in ClockSync writes the accumulators, the last edge, `lastBit`, and with four intervals the estimate. -/
theorem Rx.stepTransition_cases (r : Rx) (now : Tick) (s : Level) :
    (¬ 4 ≤ (addW r.numPulses 1).toNat ∧ r.stepTransition now s =
      { r with pulseTimeTotal := addW r.pulseTimeTotal (subW now r.systimePrevPulse), numPulses := addW r.numPulses 1,
               systimePrevPulse := now, lastBit := s }) ∨
    (4 ≤ (addW r.numPulses 1).toNat ∧ ∃ avg,
      avg = addW r.pulseTimeTotal (subW now r.systimePrevPulse) / addW r.numPulses 1 ∧ r.stepTransition now s =
      { r with pulseTimeTotal := addW r.pulseTimeTotal (subW now r.systimePrevPulse), numPulses := addW r.numPulses 1,
               avgPulseTime := avg, systimeNextPulse := addW now avg, systimePrevPulse := now, lastBit := s }) := by
  by_cases h : 4 ≤ (addW r.numPulses 1).toNat
  · exact .inr ⟨h, _, rfl, if_pos h⟩
  · exact .inl ⟨h, if_neg h⟩

/-- In Waiting: nothing, or the first transition. -/
theorem Rx.stepWaiting_cases (r : Rx) (now : Tick) (s : Level) :
    (s = r.lastBit ∧ r.stepWaiting now s = r) ∨
    (s ≠ r.lastBit ∧ r.stepWaiting now s =
      { r with systimePrevPulse := now, pulseTimeTotal := 0, numPulses := 0, avgPulseTime := 0, lastBit := s,
               rxState := .clockSync }) := by
  by_cases hs : s = r.lastBit <;> simp [Rx.stepWaiting, hs]

section Dispatch
variable (cap : Idx) (r : Rx) (now : Tick) (s : Level)

theorem Rx.step_waiting (h : r.rxState = .waiting) : Rx.step cap r now s = r.stepWaiting now s := by simp [Rx.step, h]
theorem Rx.step_clockSync (h : r.rxState = .clockSync) : Rx.step cap r now s = r.stepClockSync now s := by simp [Rx.step, h]
theorem Rx.step_awaitFrame (h : r.rxState = .awaitFrame) : Rx.step cap r now s = r.stepAwaitFrame now s := by
  simp [Rx.step, h]
theorem Rx.step_receiving (h : r.rxState = .receiving) : Rx.step cap r now s = Rx.stepReceiving cap r now s := by
  simp [Rx.step, h]
theorem Rx.step_complete (h : r.rxState = .complete) : Rx.step cap r now s = r := by simp [Rx.step, h]

end Dispatch

end Sys2Proof.Machine
end

