-- ==== Sys2Proof/Laws/Transmitter.lean ====
section
/-! SUPPORT. Everything TX_TICK can do, said once (40_transmitter.md R110 to R116). -/

namespace Sys2Proof.Machine

section Dispatch
variable {t : Tx}

theorem Tx.tick_idle (h : t.txPhase = .idle) : t.tick = t := by simp only [Tx.tick, h]
theorem Tx.tick_done (h : t.txPhase = .done) : t.tick = t := by simp only [Tx.tick, h]
theorem Tx.tick_preamble (h : t.txPhase = .preamble) : t.tick = t.tickPreamble := by simp only [Tx.tick, h]
theorem Tx.tick_sync (h : t.txPhase = .sync) : t.tick = t.tickSync := by simp only [Tx.tick, h]
theorem Tx.tick_data (h : t.txPhase = .data) : t.tick = t.tickData := by simp only [Tx.tick, h]

end Dispatch

/-- TX_TICK does one of: nothing, in Idle or Done; a level and the next position, or the next phase after the eighth; a payload bit; or
the entry into Done. -/
theorem Tx.tick_cases (t : Tx) :
    ((t.txPhase = .idle ∨ t.txPhase = .done) ∧ t.tick = t) ∨
    (t.txPhase = .preamble ∧ t.bitPosition + 1 ≠ 8 ∧
      t.tick = { t with txOut := t.bitPosition.toNat % 2 == 0, bitPosition := t.bitPosition + 1 }) ∨
    (t.txPhase = .preamble ∧ t.bitPosition + 1 = 8 ∧
      t.tick = { t with txOut := t.bitPosition.toNat % 2 == 0, txPhase := .sync, bitPosition := 0 }) ∨
    (t.txPhase = .sync ∧ t.bitPosition + 1 ≠ 8 ∧
      t.tick = { t with txOut := decide (t.bitPosition.toNat < 4), bitPosition := t.bitPosition + 1 }) ∨
    (t.txPhase = .sync ∧ t.bitPosition + 1 = 8 ∧
      t.tick = { t with txOut := decide (t.bitPosition.toNat < 4), txPhase := .data, bitPosition := 0 }) ∨
    (t.txPhase = .data ∧ t.bitPosition.toNat < 8 * t.payloadLen.toNat ∧
      t.tick = { t with txOut := t.payloadBit t.bitPosition.toNat, bitPosition := t.bitPosition + 1 }) ∨
    (t.txPhase = .data ∧ 8 * t.payloadLen.toNat ≤ t.bitPosition.toNat ∧
      t.tick = { t with txOut := false, txPhase := .done }) := by
  cases h : t.txPhase with
  | idle => exact .inl ⟨.inl rfl, Tx.tick_idle h⟩
  | done => exact .inl ⟨.inr rfl, Tx.tick_done h⟩
  | preamble =>
    by_cases hb : t.bitPosition + 1 = 8
    · exact .inr (.inr (.inl ⟨rfl, hb, (Tx.tick_preamble h).trans (if_pos hb)⟩))
    · exact .inr (.inl ⟨rfl, hb, ((Tx.tick_preamble h).trans (if_neg hb)).trans (by rw [← h]; rfl)⟩)
  | sync =>
    by_cases hb : t.bitPosition + 1 = 8
    · exact .inr (.inr (.inr (.inr (.inl ⟨rfl, hb, (Tx.tick_sync h).trans (if_pos hb)⟩))))
    · exact .inr (.inr (.inr (.inl ⟨rfl, hb, ((Tx.tick_sync h).trans (if_neg hb)).trans (by rw [← h]; rfl)⟩)))
  | data =>
    by_cases hb : t.bitPosition.toNat < 8 * t.payloadLen.toNat
    · exact .inr (.inr (.inr (.inr (.inr (.inl ⟨rfl, hb,
        ((Tx.tick_data h).trans (if_pos hb)).trans (by rw [← h]; rfl)⟩)))))
    · exact .inr (.inr (.inr (.inr (.inr (.inr ⟨rfl, not_lt.1 hb, (Tx.tick_data h).trans (if_neg hb)⟩)))))

/-- TX_TICK never writes the payload, the staging buffer or their lengths. -/
theorem Tx.tick_frame (t : Tx) :
    t.tick.payload = t.payload ∧ t.tick.payloadLen = t.payloadLen ∧ t.tick.stage = t.stage ∧
      t.tick.stageLen = t.stageLen := by
  rcases t.tick_cases with ⟨-, h⟩ | ⟨-, -, h⟩ | ⟨-, -, h⟩ | ⟨-, -, h⟩ | ⟨-, -, h⟩ | ⟨-, -, h⟩ | ⟨-, -, h⟩ <;>
    (rw [h]; exact ⟨rfl, rfl, rfl, rfl⟩)

end Sys2Proof.Machine
end

