-- ==== Sys2Proof/Tests/Slice0.lean ====
section
/-! SUPPORT. The model's own tests: expected values are from the spec's examples and vectors (95_test_vectors.md), or worked by hand
from the rule a test names; and for each statement with hypotheses a state that meets them. -/

namespace Sys2Proof.Tests

open Sys2Proof.Machine

/-! ### Small states -/

/-- The parameters of P1: RX_CAP 4, TX_MAX 2, loopback. -/
def loopParams : Params := { rxCap := 4, txMax := 2, loopback := true, onRise := defaultOnRise, onFall := defaultOnFall }

/-- A receiving board: RX_CAP 4, TX_MAX 2. -/
def boardParams : Params := { loopParams with loopback := false }

def loopState : State := State.resetWith loopParams
def boardState : State := State.resetWith boardParams

/-- A state with transmitter `t`. -/
def txState (t : Tx) : State := { loopState with tx := t }

/-- A receiving board with receiver `r` and counter `now`. -/
def rxState (now : Tick) (r : Rx) : State := { boardState with now := now, rx := r }

/-- The state after an event that has a next state; `s` itself otherwise. -/
def after (i : Instr) (s : State) : State :=
  match exec i s with
  | .next t => t
  | _ => s

/-- The event answers this refusal. -/
def refusedWith (i : Instr) (s : State) : Option RefCode :=
  match exec i s with
  | .refused (.outsideContract c) => some c
  | _ => none

/-- The state after one step; `s` itself otherwise. -/
def afterStep (s : State) : State :=
  match step s with
  | .next t => t
  | _ => s

/-! ### Operand checks (30_encoding.md R89): an ill-formed term for each, and the legal value beside it -/

theorem test_wf_wrStage_index : ¬ (Instr.wrStage 2 0).WellFormed loopParams ∧ (Instr.wrStage 1 0).WellFormed loopParams := by decide
theorem test_wf_wrStageLen_len : ¬ (Instr.wrStageLen 3).WellFormed loopParams ∧ (Instr.wrStageLen 2).WellFormed loopParams := by
  decide
theorem test_wf_rdReg_regno : ¬ (Instr.rdReg 0x00D).WellFormed loopParams ∧ (Instr.rdReg 0x00C).WellFormed loopParams := by decide
theorem test_wf_rdRxbuf_index : ¬ (Instr.rdRxbuf 4).WellFormed loopParams ∧ (Instr.rdRxbuf 3).WellFormed loopParams := by decide
theorem test_wf_rdStage_index : ¬ (Instr.rdStage 2).WellFormed loopParams ∧ (Instr.rdStage 1).WellFormed loopParams := by decide

/-! ### Decoding: words written out bit by bit from 30_encoding.md R84 and R85 (OP, IDX, bits 15:8, bits 7:0) -/

theorem test_decode_tick0 : decode 0b00000000000000000000000000000000 = .event (.tick false) := by decide
theorem test_decode_tick1 : decode 0b00000000000000000000000000000001 = .event (.tick true) := by decide
theorem test_decode_txStart : decode 0b00010000000000000000000000000000 = .event .txStart := by decide
theorem test_decode_txStop : decode 0b00100000000000000000000000000000 = .event .txStop := by decide
theorem test_decode_rxInit : decode 0b00110000000000000000000000000000 = .event .rxInit := by decide
theorem test_decode_ctrlRise : decode 0b01000000000000000000000000000000 = .event .ctrlRise := by decide
theorem test_decode_ctrlFall : decode 0b01010000000000000000000000000000 = .event .ctrlFall := by decide
theorem test_decode_wrStage : decode 0b01101000000000010000000001010011 = .event (.wrStage 0x801 0x53) := by decide
theorem test_decode_wrStageLen : decode 0b01110000000000100000000000000000 = .event (.wrStageLen 2) := by decide
theorem test_decode_rdReg : decode 0b10000000000011000000000000000000 = .event (.rdReg 0x00C) := by decide
theorem test_decode_rdRxbuf : decode 0b10010000000000010000000000000000 = .event (.rdRxbuf 1) := by decide
theorem test_decode_rdStage : decode 0b10101111111111110000000000000000 = .event (.rdStage 0xFFF) := by decide
theorem test_decode_sysReset : decode 0b10110000000000000000000000000000 = .event .sysReset := by decide
theorem test_decode_reserved_op : decode 0xC0000000 = .refused .reservedOp ∧ decode 0xFFFFFFFF = .refused .reservedOp := by decide
theorem test_decode_reserved_bits_before_index : decode 0x6FFF0100 = .refused .reservedBits := by decide
theorem test_encode_wrStage : encode (.wrStage 1 0x53) = 0x60010053 := by decide
theorem test_decodeTableWord_wrStage : decodeTableWord 32 0x60000000 = some (.wrStage 0 0) := by decide

/-! ### Transmitter (95_test_vectors.md V-TX-2 to V-TX-5) -/

theorem test_tick_preamble_last : (after (.tick false) (txState { Tx.reset with txPhase := .preamble, bitPosition := 7, txOut := true })).tx =
    { Tx.reset with txPhase := .sync, bitPosition := 0, txOut := false } := by decide
theorem test_tick_sync_fourth_and_fifth :
    (after (.tick false) (txState { Tx.reset with txPhase := .sync, bitPosition := 3 })).tx.txOut = true ∧
    (after (.tick false) (txState { Tx.reset with txPhase := .sync, bitPosition := 4 })).tx.txOut = false := by decide
theorem test_tick_data_bit_two : (after (.tick false) (txState
    { Tx.reset with txPhase := .data, bitPosition := 2, payload := [(0, 0xAC)], payloadLen := 1 })).tx.txOut = true := by decide
theorem test_tick_data_end : (after (.tick false) (txState
    { Tx.reset with txPhase := .data, bitPosition := 16, payloadLen := 2, txOut := true })).tx =
    { Tx.reset with txPhase := .done, bitPosition := 16, payloadLen := 2, txOut := false } := by decide
theorem test_txStart_from_done : (after .txStart (txState
    { Tx.reset with txPhase := .done, bitPosition := 16, stage := [(0, 0x5A), (1, 0x3C)], stageLen := 2 })).tx =
    { Tx.reset with txPhase := .preamble, bitPosition := 0, stage := [(0, 0x5A), (1, 0x3C)], stageLen := 2,
                    payload := [(0, 0x5A), (1, 0x3C)], payloadLen := 2 } := by decide
theorem test_txStop_from_data : (after .txStop (txState
    { Tx.reset with txPhase := .data, bitPosition := 5, payload := [(0, 0x5A)], payloadLen := 1, txOut := true })).tx =
    { Tx.reset with txPhase := .idle, bitPosition := 0, payload := [(0, 0x5A)], payloadLen := 1, txOut := false } := by decide
/-- V-TX-1, the wave of `[0x5A]`. -/
theorem test_wave_5A : wave [0x5A] =
    [true, false, true, false, true, false, true, false] ++ [true, true, true, true, false, false, false, false] ++
    [false, true, false, true, true, false, true, false] ++ [false] := by decide

/-! ### Receiver (95_test_vectors.md V-SRC-3, V-RX-1 to V-RX-8) -/

theorem test_rx_waiting_first_transition : (after (.tick true) (rxState 5 Rx.reset)).rx =
    { Rx.reset with rxState := .clockSync, systimePrevPulse := 6, lastBit := true } := by decide
/-- 41_receiver.md R143 and R144, the examples. -/
theorem test_rx_fourth_interval : (after (.tick true) (rxState 405
    { Rx.reset with rxState := .clockSync, systimePrevPulse := 306, pulseTimeTotal := 300, numPulses := 3 })).rx =
    { Rx.reset with rxState := .clockSync, systimePrevPulse := 406, pulseTimeTotal := 400, numPulses := 4,
                    avgPulseTime := 100, systimeNextPulse := 506, lastBit := true } := by decide
/-- The estimator of 41_receiver.md R145's example: `avgPulseTime = 100`, the last transition at 806. -/
def synced : Rx :=
  { Rx.reset with
    rxState := .clockSync, lastBit := true, systimePrevPulse := 806, numPulses := 8, avgPulseTime := 100,
    systimeNextPulse := 906 }

/-- 41_receiver.md R145 and R146: idle 150 stays, idle 151 exits. -/
theorem test_rx_threshold : (after (.tick true) (rxState 955 synced)).rx = synced ∧
    (after (.tick true) (rxState 956 synced)).rx =
      { synced with rxState := .awaitFrame, systimeNextSample := 956, frameShiftRegister := 0xFF } := by decide
theorem test_rx_due : due 5 5 = true ∧ due 4 5 = false ∧ due 1 0xFFFFFFFF = true ∧ due 0x80000000 0 = false := by decide
/-- R148 by hand: `0x1F >> 1` is `0x0F`, and a 1 sample adds bit 7 (V-RX-6 prints `0x9F` there against R148, log 18). -/
theorem test_rx_shift : shiftIn 0x1F false = 0x0F ∧ shiftIn 0x1F true = 0x8F := by decide

/-- Waiting for the frame, one 0 short of the sentinel, the next sample at tick 10. -/
def nearMatch : Rx :=
  { Rx.reset with
    rxState := .awaitFrame, systimeNextSample := 10, avgPulseTime := 4, frameShiftRegister := 0x1F, frameBitPos := 8 }

theorem test_rx_match : (after (.tick false) (rxState 9 nearMatch)).rx =
    { nearMatch with rxState := .receiving, systimeNextSample := 14, frameShiftRegister := 0x0F } := by decide

/-- Receiving the eighth bit of byte 0, the next sample at tick 10. -/
def nearByte : Rx :=
  { Rx.reset with
    rxState := .receiving, systimeNextSample := 10, avgPulseTime := 4, bitBuffer := [(0, 0x2C)], bitBufferBit := 7 }

/-- V-RX-7: the eighth bit of `0x2C` makes `0xAC`, counted; and a 0 sample clears a bit. -/
theorem test_rx_eighth_bit : (after (.tick true) (rxState 9 nearByte)).rx =
    { nearByte with systimeNextSample := 14, bitBuffer := [(0, 0xAC)], bitBufferBit := 0, bitBufferPos := 1 } := by decide
theorem test_rx_clear_bit : putBit 0xFF 2 false = 0xFB := by decide
/-- V-RX-8: a zero byte ends the frame uncounted; a full buffer ends it counted. -/
theorem test_rx_byteDone :
    (Rx.byteDone 4 { Rx.reset with rxState := .receiving, bitBufferPos := 2, bitBufferBit := 7 } 0x00) =
      { Rx.reset with rxState := .complete, bitBufferPos := 2 } ∧
    (Rx.byteDone 2 { Rx.reset with rxState := .receiving, bitBufferPos := 1, bitBufferBit := 7 } 0x53) =
      { Rx.reset with rxState := .complete, bitBufferPos := 2 } := by decide
theorem test_rxInit_keeps_counter : after .rxInit (rxState 41 { nearByte with rxState := .complete, lastBit := true }) =
    rxState 41 Rx.reset := by decide

/-! ### Tick, control edges, host events (95_test_vectors.md 2.4) -/

/-- V-H-2: loopback samples `txOut`, two boards sample L. -/
theorem test_sample : sample true true false = true ∧ sample false true false = false ∧ sample false false true = true := by decide
/-- V-H-1: in the first TICK the receiver samples 0 and the transmitter then writes 1. -/
theorem test_tick_receiver_first : (after (.tick true) (txState { Tx.reset with txPhase := .preamble })).rx = Rx.reset ∧
    (after (.tick true) (txState { Tx.reset with txPhase := .preamble })).tx.txOut = true ∧
    (after (.tick true) (txState { Tx.reset with txPhase := .preamble })).now = 1 := by decide
theorem test_ctrlRise_default : (after .ctrlRise { txState { Tx.reset with txPhase := .data, bitPosition := 5, txOut := true } with
    rx := { Rx.reset with rxState := .receiving, bitBufferPos := 1 } }) =
    txState { Tx.reset with txPhase := .preamble, bitPosition := 0, txOut := true } := by decide
theorem test_ctrlFall_default : (after .ctrlFall { txState { Tx.reset with txPhase := .sync, bitPosition := 2, txOut := true } with
    rx := { Rx.reset with rxState := .clockSync } }) =
    { loopState with rx := { Rx.reset with rxState := .clockSync } } := by decide
theorem test_wrStage : (after (.wrStage 1 0x53) loopState).tx.stage = [(1, 0x53)] ∧
    refusedWith (.wrStage 2 0x53) loopState = some .index := by decide
theorem test_wrStageLen : (after (.wrStageLen 2) loopState).tx.stageLen = 2 ∧
    refusedWith (.wrStageLen 3) loopState = some .len := by decide
/-- V-H-5: STATUS after P1, and CONFIG of P1. -/
theorem test_rdReg_status : (after (.rdReg 0) { txState { Tx.reset with txPhase := .done, bitPosition := 16 } with
    rx := { Rx.reset with rxState := .complete, lastBit := true, bitBufferPos := 2 } }).output = some 0x0002038C := by decide
theorem test_rdReg_config : (after (.rdReg 0x00C) loopState).output = some 0x01002004 ∧
    refusedWith (.rdReg 0x00D) loopState = some .regno := by decide
/-- V-H-5: RX_FRAME after P1. -/
theorem test_frameReg : ({ Rx.reset with frameShiftRegister := 0x0F, frameBitPos := 5 } : Rx).frameReg = 0x50F := by decide
theorem test_rdRxbuf : (after (.rdRxbuf 1) (rxState 41 { Rx.reset with bitBuffer := [(0, 0xAC), (1, 0x53)] })).output = some 0x53 ∧
    refusedWith (.rdRxbuf 4) boardState = some .index := by decide
theorem test_rdStage : (after (.rdStage 1) (after (.wrStage 1 0x53) loopState)).output = some 0x53 ∧
    refusedWith (.rdStage 2) loopState = some .index := by decide
/-- V-RST-1. -/
theorem test_sysReset : after .sysReset { txState { Tx.reset with txPhase := .done, stage := [(0, 0xAC)], stageLen := 1 } with
    now := 41, rx := nearByte } = loopState := by decide
/-- 00_scope.md R19: a refused word changes nothing but the mark, and SYS_RESET does not clear it. -/
theorem test_step_refused_then_reset :
    afterStep { loopState with events := [0x60020000, 0xB0000000] } =
      { loopState with events := [0xB0000000], refusalMark := some .index } ∧
    (afterStep (afterStep { loopState with events := [0x60020000, 0xB0000000] })).refusalMark = some .index := by decide
theorem test_step_withFetchWord : afterStep (State.reset.withFetchWord 32 0x70020000) =
    { State.reset with tx := { Tx.reset with stageLen := 2 } } := by decide
/-- B's receiver after one step of B in a link. -/
def linkRx (k : Link) : Option RxState :=
  match Link.step .b k with
  | .next k' => some k'.b.rx.rxState
  | _ => none

/-- 60_exceptions.md R222: B samples A's output, whatever the L of its own word. -/
theorem test_link_tick :
    linkRx { a := txState { Tx.reset with txOut := true }, b := { boardState with events := [0x00000000] } } = some .clockSync ∧
    linkRx { a := loopState, b := { boardState with events := [0x00000001] } } = some .waiting := by decide

/-- 60_exceptions.md R222: B is out of loopback, whatever its parameters said. -/
theorem test_link_powerOn : (Link.powerOn loopParams loopParams).Legal ∧
    (Link.powerOn loopParams loopParams).a.params.loopback = true := by decide

/-! ### Event programs (30_encoding.md R91, R92) -/

theorem test_assemble_line : assembleLine "WR_STAGE 1, 0x53      ; 0x60010053".toList = some [.wrStage 1 0x53] := by decide
theorem test_assemble_reg : assembleLine "RD_REG RX_AVG  -> 4".toList = some [.rdReg 4] := by decide
theorem test_assemble_wave : assembleLine "WAVE 2, 1 0".toList = some [.tick true, .tick true, .tick false, .tick false] := by decide
theorem test_assemble_send : assembleLine "SEND 0xAC, 83".toList =
    some [.wrStage 0 0xAC, .wrStage 1 0x53, .wrStageLen 2, .txStart] := by decide

/-! ### For each statement with hypotheses: a state and operands that meet them all, at the ends of each clause's range -/

theorem witness_SpecEventWordsDecodeAsListed : loopState.params.txMax = 2 ∧ loopState.params.rxCap = 4 := by decide
theorem witness_EncodeOfDecodedWordGivesTheWordBack : decode 0x6FFF00FF = .event (.wrStage 0xFFF 0xFF) := by decide
/-- Each side of the equivalence at its ends. -/
theorem witness_ReservedOpIsRefusedByName :
    decode 0xC0000000 = .refused .reservedOp ∧ decode 0xFFFFFFFF = .refused .reservedOp ∧
    decode 0xBFFFFFFF = .refused .reservedBits := by decide
/-- The first and the last reserved bit of each format. -/
theorem witness_ReservedBitsAreRefusedByName :
    (decode 0x00000002 = .refused .reservedBits ∧ decode 0x08000000 = .refused .reservedBits) ∧
    (decode 0x10000001 = .refused .reservedBits ∧ decode 0xB8000000 = .refused .reservedBits) ∧
    (decode 0x70000001 = .refused .reservedBits ∧ decode 0xA0008000 = .refused .reservedBits) ∧
    (decode 0x60000100 = .refused .reservedBits ∧ decode 0x60008000 = .refused .reservedBits) := by decide
theorem witness_OpcodeTableRowsAreDisjointAndDecoded :
    OpcodeRow.Matches ⟨"WR_STAGE", 0x60000000, 0xF000FF00⟩ 0x6FFF00FF ∧
    (⟨"WR_STAGE", 0x60000000, 0xF000FF00⟩ : OpcodeRow) ∈ opcodeTable ∧
    decode 0x6FFF00FF = .event (.wrStage 0xFFF 0xFF) := ⟨by unfold OpcodeRow.Matches; decide, by decide, by decide⟩
theorem witness_StepRunsTheFirstWaitingEvent :
    { loopState with events := [0x60010053, 0] }.events = 0x60010053 :: [0] ∧
    decode 0x60010053 = .event (.wrStage 1 0x53) ∧ (Instr.wrStage 1 0x53).WellFormed loopParams := by decide
theorem witness_StepWithoutEventHoldsTheState : loopState.events = [] := by decide
/-- The first and the last refused operand of each check, a legal event, and a loopback instance. -/
theorem witness_OperandChecksRefuseByName :
    (loopState.params.txMax.toNat ≤ (2 : Idx).toNat ∧ loopState.params.txMax.toNat ≤ (0xFFF : Idx).toNat) ∧
    (loopState.params.txMax.toNat < (3 : Idx).toNat ∧ loopState.params.txMax.toNat < (0xFFF : Idx).toNat) ∧
    (0x00D ≤ (0x00D : Idx).toNat ∧ 0x00D ≤ (0xFFF : Idx).toNat) ∧
    (loopState.params.rxCap.toNat ≤ (4 : Idx).toNat ∧ loopState.params.rxCap.toNat ≤ (0xFFF : Idx).toNat) ∧
    (Instr.wrStageLen 2).WellFormed loopState.params ∧ loopState.params.loopback = true := by decide
theorem witness_RefusedEventOnlySetsTheMark :
    decode 0xC0000000 = .refused .reservedOp ∧
    (decode 0x60020000 = .event (.wrStage 2 0) ∧ (Instr.wrStage 2 0).operandFault loopParams = some .index) := by decide
theorem witness_RefusalMarkIsNeverReadNorCleared :
    step { loopState with events := [0xB0000000], refusalMark := some .len } = .next { loopState with refusalMark := some .len } ∧
    ({ loopState with refusalMark := some .len } : State).refusalMark ≠ none := ⟨rfl, by decide⟩

theorem witness_PreambleTickWritesAlternatingLevels :
    (txState { Tx.reset with txPhase := .preamble, bitPosition := 7 }).tx.txPhase = .preamble := by decide
theorem witness_SyncTickWritesFourOnesThenFourZeros :
    (txState { Tx.reset with txPhase := .sync, bitPosition := 7 }).tx.txPhase = .sync := by decide

/-- A transmitter in Data at position `p` of a session of `n` bytes. -/
def inData (p : BitVec 16) (n : Idx) : State := txState { Tx.reset with txPhase := .data, bitPosition := p, payloadLen := n }

/-- The first and the last position, of the shortest and of the longest session with a bit. -/
theorem witness_DataTickWritesTheNextPayloadBit :
    (inData 0 1).tx.bitPosition.toNat < 8 * (inData 0 1).tx.payloadLen.toNat ∧
    (inData 32759 4095).tx.bitPosition.toNat < 8 * (inData 32759 4095).tx.payloadLen.toNat ∧
    (inData 0 1).tx.txPhase = .data ∧ (inData 32759 4095).tx.txPhase = .data := by decide
theorem witness_DataEndTickEntersDoneWithLineLow :
    (inData 0 0).tx.bitPosition.toNat = 8 * (inData 0 0).tx.payloadLen.toNat ∧
    (inData 32760 4095).tx.bitPosition.toNat = 8 * (inData 32760 4095).tx.payloadLen.toNat ∧
    (inData 0 0).tx.txPhase = .data ∧ (inData 32760 4095).tx.txPhase = .data := by decide
theorem witness_IdleAndDoneTicksWriteNothing :
    loopState.tx.txPhase = .idle ∧ (txState { Tx.reset with txPhase := .done }).tx.txPhase = .done := by decide
theorem witness_TransmitterReadsNeitherLineReceiverNorCounter :
    boardState.tx = (rxState 9 nearByte).tx ∧ boardState.params = (rxState 9 nearByte).params ∧
    exec (.tick true) boardState = .next (boardState.tick true) ∧
    exec (.tick false) (rxState 9 nearByte) = .next ((rxState 9 nearByte).tick false) := ⟨rfl, rfl, rfl, rfl⟩

/-- One staged byte, no session yet. -/
def staged : State := txState { Tx.reset with stage := [(0, 0xAC)], stageLen := 1 }

/-- TX_START and the control edge write the payload, SYS_RESET clears it. -/
theorem witness_PayloadIsImmutableForTheSession :
    (exec .txStart staged = .next (after .txStart staged) ∧ (after .txStart staged).tx.payload ≠ staged.tx.payload) ∧
    (exec .ctrlRise staged = .next (after .ctrlRise staged) ∧ (after .ctrlRise staged).tx.payload ≠ staged.tx.payload) ∧
    (exec .sysReset (after .txStart staged) = .next loopState ∧ loopState.tx.payload ≠ (after .txStart staged).tx.payload) :=
  ⟨⟨rfl, by decide⟩, ⟨rfl, by decide⟩, ⟨rfl, by decide⟩⟩
theorem witness_LineAndPhaseHaveOnlyTheirWriters :
    (exec (.tick false) (after .txStart staged) = .next (after (.tick false) (after .txStart staged)) ∧
      (after (.tick false) (after .txStart staged)).tx.txOut ≠ (after .txStart staged).tx.txOut) ∧
    (exec .txStart staged = .next (after .txStart staged) ∧ (after .txStart staged).tx.txPhase ≠ staged.tx.txPhase) :=
  ⟨⟨rfl, by decide⟩, ⟨rfl, by decide⟩⟩

/-- Each clause: no transition, and a transition. -/
theorem witness_WaitingTickTakesTheFirstTransition :
    boardState.rx.rxState = .waiting ∧ boardState.lineIn false = boardState.rx.lastBit ∧
    boardState.lineIn true ≠ boardState.rx.lastBit := by decide
/-- In ClockSync with `n` intervals of 100 folded in, the last transition at 306. -/
def folding (n : Tick) : Rx :=
  { Rx.reset with rxState := .clockSync, systimePrevPulse := 306, pulseTimeTotal := n * 100, numPulses := n }

/-- Two and three intervals before this one: below four, and exactly four, with it. -/
theorem witness_ClockSyncTransitionFoldsTheInterval :
    (rxState 405 (folding 2)).rx.rxState = .clockSync ∧ (rxState 405 (folding 2)).lineIn true ≠ (folding 2).lastBit ∧
    (after (.tick true) (rxState 405 (folding 2))).rx.numPulses.toNat < 4 ∧
    4 ≤ (after (.tick true) (rxState 405 (folding 3))).rx.numPulses.toNat := by decide
/-- Idle 151 with an estimate of 100, and idle 150. -/
theorem witness_ClockSyncIdleExitsStrictlyAboveThreshold :
    synced.rxState = .clockSync ∧ (rxState 956 synced).lineIn true = synced.lastBit ∧ 4 ≤ synced.numPulses.toNat ∧
    synced.avgPulseTime.toNat + synced.avgPulseTime.toNat / 2 <
      ticksSince (BitVec.ofNat 32 (rxState 956 synced).nextNow) synced.systimePrevPulse ∧
    ¬ synced.avgPulseTime.toNat + synced.avgPulseTime.toNat / 2 <
      ticksSince (BitVec.ofNat 32 (rxState 955 synced).nextNow) synced.systimePrevPulse := by decide
/-- The last tick before the sample instant and the instant itself, and both ends of the due half. -/
theorem witness_AwaitFrameTickShiftsAndMatchesTheSentinel :
    nearMatch.rxState = .awaitFrame ∧
    (2 ^ 31 ≤ ticksSince (BitVec.ofNat 32 (rxState 8 nearMatch).nextNow) nearMatch.systimeNextSample ∧
      2 ^ 31 ≤ ticksSince (BitVec.ofNat 32 (rxState 0x80000009 nearMatch).nextNow) nearMatch.systimeNextSample) ∧
    (ticksSince (BitVec.ofNat 32 (rxState 9 nearMatch).nextNow) nearMatch.systimeNextSample < 2 ^ 31 ∧
      ticksSince (BitVec.ofNat 32 (rxState 0x80000008 nearMatch).nextNow) nearMatch.systimeNextSample < 2 ^ 31) ∧
    (after (.tick false) (rxState 9 nearMatch)).rx.frameShiftRegister = 0x0F ∧
    (after (.tick true) (rxState 9 nearMatch)).rx.frameShiftRegister ≠ 0x0F := by decide
/-- The first and the last byte of the buffer, not due and due. -/
theorem witness_ReceivingTickWritesOneBitAndEndsBytes :
    nearByte.bitBufferPos.toNat < boardParams.rxCap.toNat ∧
    ({ nearByte with bitBufferPos := 3 } : Rx).bitBufferPos.toNat < boardParams.rxCap.toNat ∧
    nearByte.rxState = .receiving ∧ nearByte.bitBuffer.wf = true ∧
    2 ^ 31 ≤ ticksSince (BitVec.ofNat 32 (rxState 8 nearByte).nextNow) nearByte.systimeNextSample ∧
    ticksSince (BitVec.ofNat 32 (rxState 9 nearByte).nextNow) nearByte.systimeNextSample < 2 ^ 31 := by decide
theorem witness_CompleteReceiverIsFrozenUnderTicks :
    (rxState 41 { nearByte with rxState := .complete }).rx.rxState = .complete := by decide
/-- A step up, and a return to Waiting. -/
theorem witness_ReceiverStateMovesOneCodeUpOrIsReset :
    (exec (.tick true) boardState = .next (boardState.tick true) ∧ (boardState.tick true).rx.rxState = .clockSync) ∧
    (exec .rxInit (rxState 9 nearByte) = .next (rxState 9 Rx.reset) ∧ nearByte.rxState = .receiving) :=
  ⟨⟨rfl, by decide⟩, ⟨rfl, by decide⟩⟩
theorem witness_SampleGridIsFixedAfterClockSync :
    nearMatch.rxState = .awaitFrame ∧ nearByte.rxState = .receiving ∧
    ({ nearByte with rxState := .complete } : Rx).rxState = .complete := by decide
theorem witness_FirstSampleInstantIsTwoTicksBeforeTheNextTick :
    synced.rxState = .clockSync ∧ (rxState 956 synced).lineIn true = synced.lastBit ∧ 4 ≤ synced.numPulses.toNat ∧
    synced.systimeNextPulse = synced.systimePrevPulse + synced.avgPulseTime ∧
    ticksSince (BitVec.ofNat 32 (rxState 956 synced).nextNow) synced.systimePrevPulse =
      synced.avgPulseTime.toNat + synced.avgPulseTime.toNat / 2 + 1 := by decide
/-- The shortest and the longest period. -/
theorem witness_FourEqualIntervalsGiveThatPeriod :
    boardState.params.loopback = false ∧ boardState.rx.rxState = .waiting ∧ boardState.rx.lastBit = false ∧
    (1 ≤ 1 ∧ 4 * 1 < 2 ^ 32) ∧ (1 ≤ 2 ^ 30 - 1 ∧ 4 * (2 ^ 30 - 1) < 2 ^ 32) := by decide
/-- The shortest and the longest estimate. -/
theorem witness_IdleGapAtThresholdStaysAndOneMoreExits :
    (rxState 806 synced).params.loopback = false ∧ synced.rxState = .clockSync ∧ 4 ≤ synced.numPulses.toNat ∧
    synced.systimePrevPulse = (rxState 806 synced).now ∧
    (1 : Tick).toNat + (1 : Tick).toNat / 2 + 1 < 2 ^ 32 ∧
    (2863311529 : Tick).toNat + (2863311529 : Tick).toNat / 2 + 1 < 2 ^ 32 := by decide

/-- The least and one more TICK, with an empty payload and with the longest of this instance. -/
theorem witness_LoopbackTransferRecordsThePayload :
    loopState.params.loopback = true ∧ loopState.params.onRise = [.txStart, .rxInit] ∧ loopState.params.Legal ∧
    loopState.tx.txOut = false ∧ 8 * loopState.tx.stageLen.toNat + 25 ≤ (List.replicate 25 false).length ∧
    8 * ({ Tx.reset with stageLen := 2 } : Tx).stageLen.toNat + 25 ≤ (List.replicate 42 false).length := by decide
/-- The least idle time at the shortest period, and the longest period of an empty payload. -/
theorem witness_TwoBoardTransferRecordsThePayload :
    boardState.params.loopback = false ∧ boardState.params.Legal ∧
    ((8 * [(0xAC : Byte), 0x53].length + 24) * 1 < 2 ^ 31 ∧
      (8 * [(0xAC : Byte), 0x53].length + 23) * 1 + 1 / 2 + 1 ≤ (8 * [(0xAC : Byte), 0x53].length + 17) * 1 + 7) ∧
    ((8 * ([] : List Byte).length + 24) * 89478485 < 2 ^ 31 ∧
      (8 * ([] : List Byte).length + 23) * 89478485 + 89478485 / 2 + 1 ≤
        (8 * ([] : List Byte).length + 17) * 89478485 + 581610153) := by decide
/-- A link whose B has an event waiting. -/
def linkWith (w : Word) : Link := { a := staged, b := { boardState with events := [w] } }

/-- Each clause: a TICK of B, a refused word with the OP of TICK, an event of another OP, and nothing waiting. -/
theorem witness_LinkTickOfBSamplesTheOutputOfA :
    Link.step .b (linkWith (encode (.tick true))) = .next { a := staged, b := { boardState with now := 1 } } ∧
    (linkWith (encode (.tick true))).Legal ∧ (linkWith (encode (.tick true))).b.events = encode (.tick true) :: [] ∧
    (linkWith 0x00000003).b.events = 0x00000003 :: [] ∧ (∀ l, decode 0x00000003 ≠ .event (.tick l)) ∧
    (∀ l, decode 0x30000000 ≠ .event (.tick l)) ∧ (Link.powerOn loopParams loopParams).b.events = [] :=
  ⟨rfl, by decide, rfl, rfl, by decide, by decide, rfl⟩

/-- A TICK at the top of the counter, SYS_RESET, and an event that leaves the counter. -/
theorem witness_NowIsWrittenOnlyByTickAndReset :
    exec (.tick false) (rxState 0xFFFFFFFF Rx.reset) = .next boardState ∧
    exec .sysReset (rxState 41 Rx.reset) = .next boardState ∧
    exec .txStop (rxState 41 Rx.reset) = .next (rxState 41 Rx.reset) := ⟨rfl, rfl, rfl⟩
theorem witness_CtrlRisePerformsTheMappedSequence : loopState.params.onRise = defaultOnRise := by decide
theorem witness_CtrlFallPerformsTheMappedSequence : loopState.params.onFall = defaultOnFall := by decide
/-- The first and the last legal index and the first refused one. -/
theorem witness_WrStageWritesOneStagedByte :
    loopState.tx.stage.wf = true ∧ (0 : Idx).toNat < loopState.params.txMax.toNat ∧
    (1 : Idx).toNat < loopState.params.txMax.toNat ∧ loopState.params.txMax.toNat ≤ (2 : Idx).toNat := by decide
theorem witness_WrStageLenSetsTheStagedLength :
    (0 : Idx).toNat ≤ loopState.params.txMax.toNat ∧ (2 : Idx).toNat ≤ loopState.params.txMax.toNat ∧
    loopState.params.txMax.toNat < (3 : Idx).toNat := by decide
/-- The first and the last register number and the first reserved one. -/
theorem witness_RdRegReturnsTheNumberedRegister :
    (0x000 : Idx).toNat < 0x00D ∧ (0x00C : Idx).toNat < 0x00D ∧ 0x00D ≤ (0x00D : Idx).toNat := by decide
/-- A state in each of the five phases and each of the five receiver states. -/
theorem witness_StatusHoldsItsFieldsAtTheirBits :
    (∀ p ∈ [TxPhase.idle, .preamble, .sync, .data, .done], (txState { Tx.reset with txPhase := p }).tx.txPhase = p) ∧
    (∀ r ∈ [RxState.waiting, .clockSync, .awaitFrame, .receiving, .complete],
      (rxState 0 { Rx.reset with rxState := r }).rx.rxState = r) := by decide
theorem witness_FrameAndConfigRegistersHoldTheirFields : exec .rxInit loopState = .next loopState := rfl
theorem witness_RdRxbufReturnsTheCurrentByte :
    (0 : Idx).toNat < boardState.params.rxCap.toNat ∧ (3 : Idx).toNat < boardState.params.rxCap.toNat ∧
    boardState.params.rxCap.toNat ≤ (4 : Idx).toNat := by decide
theorem witness_RdStageReturnsTheStagedByte :
    (0 : Idx).toNat < loopState.params.txMax.toNat ∧ (1 : Idx).toNat < loopState.params.txMax.toNat ∧
    loopState.params.txMax.toNat ≤ (2 : Idx).toNat := by decide
theorem witness_ReadsRepeatAndWritesAreIdempotent :
    loopState.tx.stage.wf = true ∧ exec (.rdReg 1) loopState = .next { loopState with output := some 0 } ∧
    exec (.rdRxbuf 1) loopState = .next { loopState with output := some 0 } ∧
    exec (.rdStage 1) loopState = .next { loopState with output := some 0 } ∧
    exec (.wrStage 1 0x53) loopState = .next (txState { Tx.reset with stage := [(1, 0x53)] }) ∧
    exec (.wrStageLen 1) loopState = .next (txState { Tx.reset with stageLen := 1 }) := ⟨by decide, rfl, rfl, rfl, rfl, rfl⟩

/-- The smallest and the largest capacities. -/
theorem witness_InvariantHoldsAtPowerOn :
    ({ loopParams with rxCap := 1, txMax := 1 } : Params).Legal ∧
    ({ loopParams with rxCap := 0xFFF, txMax := 0xFFF } : Params).Legal := by decide
/-- A state in the middle of a transfer, its last byte being received. -/
theorem witness_EveryStepKeepsTheInvariant :
    ({ rxState 9 { nearByte with bitBufferPos := 3 } with events := [1] } : State).Inv ∧
    step ({ rxState 9 { nearByte with bitBufferPos := 3 } with events := [1] } : State) =
      .next (afterStep { rxState 9 { nearByte with bitBufferPos := 3 } with events := [1] }) := ⟨by decide, rfl⟩
/-- The fourth interval. -/
theorem witness_EveryEventKeepsTheEstimatorInvariant :
    (rxState 405 (folding 3)).rx.EstimatorOk ∧ (rxState 405 (folding 3)).NextTickInHorizon ∧
    exec (.tick true) (rxState 405 (folding 3)) = .next ((rxState 405 (folding 3)).tick true) := ⟨by decide, by decide, rfl⟩
/-- No byte, and as many as STAGE holds. -/
theorem witness_SendPseudoEventStartsASessionWithItsBytes :
    loopState.tx.stage.wf = true ∧ ([] : List Byte).length ≤ loopState.params.txMax.toNat ∧
    [(0xAC : Byte), 0x53].length ≤ loopState.params.txMax.toNat := by decide

end Sys2Proof.Tests
end

section
/-! Proofs of the statements on the scope (00_scope.md): a refused event, the step that always answers, the falling control edge. -/

namespace Sys2Proof.Machine

section OperandCheck
variable {s : State} {i : Instr} {c : RefCode}

/-- An event that fails an operand check of 30_encoding.md R89 is refused with that check's name. -/
theorem exec_of_operandFault (h : i.operandFault s.params = some c) : exec i s = refuse c := by
  cases i with
  | wrStage idx data =>
    obtain ⟨hle, ⟨⟩⟩ := Option.ite_none_right_eq_some.1 h
    exact exec_wrStage_of_le s hle data
  | wrStageLen n =>
    obtain ⟨hlt, ⟨⟩⟩ := Option.ite_none_right_eq_some.1 h
    exact exec_wrStageLen_of_lt s hlt
  | rdReg r =>
    obtain ⟨hle, ⟨⟩⟩ := Option.ite_none_right_eq_some.1 h
    exact exec_rdReg_of_le s hle
  | rdRxbuf idx =>
    obtain ⟨hle, ⟨⟩⟩ := Option.ite_none_right_eq_some.1 h
    exact exec_rdRxbuf_of_le s hle
  | rdStage idx =>
    obtain ⟨hle, ⟨⟩⟩ := Option.ite_none_right_eq_some.1 h
    exact exec_rdStage_of_le s hle
  | tick | txStart | txStop | rxInit | ctrlRise | ctrlFall | sysReset => cases h

/-- A check of 30_encoding.md R89 that names no refusal did not meet its condition. -/
theorem not_of_check_eq_none {P : Prop} [Decidable P] (h : (if P then some c else none) = none) : ¬ P := by
  simpa using h

/-- An event that passes the operand checks of 30_encoding.md R89 has a next state. -/
theorem exec_next_of_wellFormed (h : i.WellFormed s.params) : ∃ t, exec i s = .next t := by
  cases i with
  | wrStage idx data => exact ⟨_, exec_wrStage_of_lt s (not_le.1 (not_of_check_eq_none h)) data⟩
  | wrStageLen n => exact ⟨_, exec_wrStageLen_of_le s (not_lt.1 (not_of_check_eq_none h))⟩
  | rdReg r =>
    obtain ⟨v, -, hv⟩ := exec_rdReg_of_lt s (not_le.1 (not_of_check_eq_none h))
    exact ⟨_, hv⟩
  | rdRxbuf idx => exact ⟨_, exec_rdRxbuf_of_lt s (not_le.1 (not_of_check_eq_none h))⟩
  | rdStage idx => exact ⟨_, exec_rdStage_of_lt s (not_le.1 (not_of_check_eq_none h))⟩
  | tick | txStart | txStop | rxInit | ctrlRise | ctrlFall | sysReset => exact ⟨_, rfl⟩

/-- A word refused by value is taken as one refused by the decoder is: it records its refusal and nothing else. -/
theorem takeWord_of_operandFault {w : Word} (hd : decode w = .event i) (h : i.operandFault s.params = some c) :
    takeWord w s = .next (s.recordRefusal c) := by
  rw [takeWord_of_event hd, exec_of_operandFault h, settle_refuse]

end OperandCheck

/-- Every word is taken: refused by the decoder, refused by value, or with a next state of its event. -/
theorem takeWord_next (w : Word) (s : State) : ∃ t, takeWord w s = .next t := by
  cases hd : decode w with
  | refused c => exact ⟨_, takeWord_of_refused hd s⟩
  | event i =>
    cases hf : i.operandFault s.params with
    | some c => exact ⟨_, takeWord_of_operandFault hd hf⟩
    | none =>
      obtain ⟨t, ht⟩ := exec_next_of_wellFormed hf
      exact ⟨t, by rw [takeWord_of_event hd, ht, settle_next]⟩

theorem step_of_nil {s : State} (h : s.events = []) : step s = .next s := by simp only [step, takeNextEvent, h]

/-- An operation of CTRL_MAP is what the event of its own word does (00_scope.md R14). -/
theorem exec_toEvent (o : CtrlOp) (s : State) : exec (CtrlOp.toEvent o) s = .next (CtrlOp.apply o s) := by cases o <;> rfl

/-- A CTRL_MAP sequence does what its events do one after another (42_host_and_control.md R182). -/
theorem execAll_map_toEvent (os : List CtrlOp) (s : State) :
    execAll (os.map CtrlOp.toEvent) s = .next (ctrlSeq os s) := by
  induction os generalizing s with
  | nil => rfl
  | cons o os ih => rw [List.map_cons, execAll_cons_of_next (exec_toEvent o s), ih]; rfl

/-- Settles O11: whether the decoder or an operand check refuses the word, taking it records the refusal alone. -/
theorem refusedEventOnlySetsTheMark : Obligations.RefusedEventOnlySetsTheMark := by
  intro s w rest c hs hc
  have ht : takeWord w (s.beginEvent rest) = .next ((s.beginEvent rest).recordRefusal c) := by
    obtain hr | ⟨i, hd, hf⟩ := hc
    · exact takeWord_of_refused hr _
    · exact takeWord_of_operandFault hd hf
  rw [step_of_cons hs, ht, State.recordRefusal_eq]
  rfl

/-- Settles O12: with nothing waiting the state holds, and every waiting word is taken. -/
theorem everyStepAnswersANextState : Obligations.EveryStepAnswersANextState := by
  intro s
  cases hs : s.events with
  | nil => exact ⟨s, step_of_nil hs⟩
  | cons w rest =>
    rw [step_of_cons hs]
    exact takeWord_next w (s.beginEvent rest)

/-- Settles O45: the edge runs its CTRL_MAP sequence, which by default is the one operation TX_STOP. -/
theorem ctrlFallPerformsTheMappedSequence : Obligations.CtrlFallPerformsTheMappedSequence := by
  intro s
  refine ⟨?_, ⟨_, exec_ctrlFall s⟩, fun hmap => ?_⟩
  · rw [exec_ctrlFall, execAll_map_toEvent]
  · rw [exec_ctrlFall, hmap]
    rfl

end Sys2Proof.Machine
end

section
/-! Proofs of the statements on who writes which element of the state (10_state.md R21, R22, R24, R26, R27). -/

namespace Sys2Proof.Machine

/-! ### The operations an event performs -/

/-- The sequence of CTRL_MAP operations an event performs (00_scope.md R14): its own, the mapped ones of a control edge, or none. -/
def performed (p : Params) : Instr → List CtrlOp
  | .txStart => [.txStart]
  | .txStop => [.txStop]
  | .rxInit => [.rxInit]
  | .ctrlRise => p.onRise
  | .ctrlFall => p.onFall
  | _ => []

theorem mem_performed {p : Params} {o : CtrlOp} {i : Instr} (h : o ∈ performed p i) :
    i = CtrlOp.toEvent o ∨ (i = .ctrlRise ∧ o ∈ p.onRise) ∨ (i = .ctrlFall ∧ o ∈ p.onFall) := by
  cases i with
  | txStart | txStop | rxInit => rw [List.mem_singleton.1 h]; exact .inl rfl
  | ctrlRise => exact .inr (.inl ⟨rfl, h⟩)
  | ctrlFall => exact .inr (.inr ⟨rfl, h⟩)
  | _ => cases h

/-- An event of the two halves is its sequence of operations. -/
theorem eq_ctrlSeq_of_exec {i : Instr} {s t : State} (hi : i ∈ [Instr.txStart, .txStop, .rxInit, .ctrlRise, .ctrlFall])
    (h : exec i s = .next t) : t = ctrlSeq (performed s.params i) s := by
  fin_cases hi <;> exact (Host.Outcome.next.inj h).symm

/-- What a sequence changes, one of its operations changes. -/
theorem exists_mem_of_ctrlSeq_ne {α : Type} (f : State → α) {os : List CtrlOp} {s : State}
    (h : f (ctrlSeq os s) ≠ f s) : ∃ o ∈ os, ∃ u, f (CtrlOp.apply o u) ≠ f u := by
  induction os generalizing s with
  | nil => exact absurd rfl h
  | cons o os ih =>
    by_cases ho : f (CtrlOp.apply o s) = f s
    · obtain ⟨o', hmem, hu⟩ := ih (s := CtrlOp.apply o s) (by rwa [ho])
      exact ⟨o', List.mem_cons_of_mem o hmem, hu⟩
    · exact ⟨o, List.mem_cons_self, s, ho⟩

/-- A sequence leaves the receiver reset where RX_INIT is among its operations, and as it was otherwise. -/
theorem ctrlSeq_rx (os : List CtrlOp) (s : State) :
    (ctrlSeq os s).rx = if CtrlOp.rxInit ∈ os then Rx.reset else s.rx := by
  induction os generalizing s with
  | nil => rfl
  | cons o os ih => rw [ctrlSeq, ih]; cases o <;> simp [CtrlOp.apply]

/-- All an event can do to the receiver: nothing, RX_STEP in a TICK, or the reset by RX_INIT, by an edge that performs it or by
SYS_RESET. -/
theorem exec_next_rx {i : Instr} {s t : State} (h : exec i s = .next t) :
    t.rx = s.rx ∨
    (∃ l, i = .tick l ∧ t.rx = Rx.step s.params.rxCap s.rx (addW s.now 1) (sample s.params.loopback s.tx.txOut l)) ∨
    (t.rx = Rx.reset ∧ (i = .rxInit ∨ i = .sysReset ∨ (i = .ctrlRise ∧ .rxInit ∈ s.params.onRise) ∨
      (i = .ctrlFall ∧ .rxInit ∈ s.params.onFall))) := by
  obtain ⟨l, rfl, rfl⟩ | ⟨hi, -⟩ | ⟨m, n, -, ht⟩ | ⟨v, -, ht⟩ | ⟨rfl, ht⟩ := exec_next_shape h
  · exact .inr (.inl ⟨l, rfl, rfl⟩)
  · rw [eq_ctrlSeq_of_exec hi h, ctrlSeq_rx]
    split_ifs with hm
    · obtain hr | he := mem_performed hm
      · exact .inr (.inr ⟨rfl, .inl hr⟩)
      · exact .inr (.inr ⟨rfl, .inr (.inr he)⟩)
    · exact .inl rfl
  · exact .inl (by rw [ht])
  · exact .inl (by rw [ht, State.ret_rx])
  · exact .inr (.inr ⟨by rw [ht], .inr (.inl rfl)⟩)

/-- What changes a value of the transmitter that the staging buffer and its length are no part of: a TICK, SYS_RESET, or an operation
the event performs. -/
theorem exec_next_tx_ne {α : Type} (f : Tx → α) (hst : ∀ u m n, f { u with stage := m, stageLen := n } = f u)
    {i : Instr} {s t : State} (h : exec i s = .next t) (hne : f t.tx ≠ f s.tx) :
    (∃ l, i = .tick l ∧ t.tx = s.tx.tick) ∨ i = .sysReset ∨
    ∃ o ∈ performed s.params i, ∃ u : State, f (CtrlOp.apply o u).tx ≠ f u.tx := by
  obtain ⟨l, rfl, rfl⟩ | ⟨hi, -⟩ | ⟨m, n, -, ht⟩ | ⟨v, -, ht⟩ | ⟨rfl, -⟩ := exec_next_shape h
  · exact .inl ⟨l, rfl, rfl⟩
  · rw [eq_ctrlSeq_of_exec hi h] at hne
    exact .inr (.inr (exists_mem_of_ctrlSeq_ne (fun u => f u.tx) hne))
  · exact absurd (by rw [ht, hst]) hne
  · exact absurd (by rw [ht, State.ret_tx]) hne
  · exact .inr (.inl rfl)

/-! ### Who writes what -/

/-- Settles O24: of what an event can do to the transmitter, only TX_START and SYS_RESET reach the session copy. -/
theorem payloadIsImmutableForTheSession : Obligations.PayloadIsImmutableForTheSession := by
  intro i s t h hne
  have hne' : (t.tx.payload, t.tx.payloadLen) ≠ (s.tx.payload, s.tx.payloadLen) := by
    rwa [ne_eq, Prod.mk.injEq, not_and_or]
  obtain ⟨l, rfl, htx⟩ | hr | ⟨o, ho, u, hu⟩ :=
    exec_next_tx_ne (fun u => (u.payload, u.payloadLen)) (fun _ _ _ => rfl) h hne'
  · obtain ⟨hp, hlen, -⟩ := s.tx.tick_frame
    exact absurd (by rw [htx, hp, hlen]) hne'
  · exact .inr (.inl hr)
  · cases o with
    | txStart =>
      obtain he | hc := mem_performed ho
      · exact .inl he
      · exact .inr (.inr hc)
    | txStop | rxInit => exact absurd rfl hu

/-- The line is written only by a TICK, SYS_RESET, or TX_STOP, performed by its own event or by an edge. -/
theorem txOut_writers {i : Instr} {s t : State} (h : exec i s = .next t) (hne : t.tx.txOut ≠ s.tx.txOut) :
    (∃ l, i = .tick l) ∨ i = .sysReset ∨ .txStop ∈ performed s.params i := by
  obtain ⟨l, rfl, -⟩ | hr | ⟨o, ho, u, hu⟩ := exec_next_tx_ne Tx.txOut (fun _ _ _ => rfl) h hne
  · exact .inl ⟨l, rfl⟩
  · exact .inr (.inl hr)
  · cases o with
    | txStop => exact .inr (.inr ho)
    | txStart | rxInit => exact absurd rfl hu

/-- The phase and the position are written besides only by TX_START, performed by its own event or by an edge. -/
theorem txPhase_writers {i : Instr} {s t : State} (h : exec i s = .next t)
    (hne : t.tx.txPhase ≠ s.tx.txPhase ∨ t.tx.bitPosition ≠ s.tx.bitPosition) :
    (∃ l, i = .tick l) ∨ i = .sysReset ∨ .txStart ∈ performed s.params i ∨ .txStop ∈ performed s.params i := by
  have hne' : (t.tx.txPhase, t.tx.bitPosition) ≠ (s.tx.txPhase, s.tx.bitPosition) := by
    rwa [ne_eq, Prod.mk.injEq, not_and_or]
  obtain ⟨l, rfl, -⟩ | hr | ⟨o, ho, u, hu⟩ :=
    exec_next_tx_ne (fun u => (u.txPhase, u.bitPosition)) (fun _ _ _ => rfl) h hne'
  · exact .inl ⟨l, rfl⟩
  · exact .inr (.inl hr)
  · cases o with
    | txStart => exact .inr (.inr (.inl ho))
    | txStop => exact .inr (.inr (.inr ho))
    | rxInit => exact absurd rfl hu

/-- Settles O25: the writers of the line and of the phase, an operation read as its event or an edge mapped to it. -/
theorem lineAndPhaseHaveOnlyTheirWriters : Obligations.LineAndPhaseHaveOnlyTheirWriters := by
  intro i s t h
  constructor
  · intro hne
    obtain hl | hr | hstop := txOut_writers h hne
    · exact .inl hl
    · exact .inr (.inr (.inl hr))
    · obtain he | hc := mem_performed hstop
      · exact .inr (.inl he)
      · exact .inr (.inr (.inr hc))
  · intro hne
    obtain hl | hr | hstart | hstop := txPhase_writers h hne
    · exact .inl hl
    · exact .inr (.inr (.inr (.inl hr)))
    · obtain he | ⟨hi, hm⟩ | ⟨hi, hm⟩ := mem_performed hstart
      · exact .inr (.inl he)
      · exact .inr (.inr (.inr (.inr (.inl ⟨hi, .inl hm⟩))))
      · exact .inr (.inr (.inr (.inr (.inr ⟨hi, .inl hm⟩))))
    · obtain he | ⟨hi, hm⟩ | ⟨hi, hm⟩ := mem_performed hstop
      · exact .inr (.inr (.inl he))
      · exact .inr (.inr (.inr (.inr (.inl ⟨hi, .inr hm⟩))))
      · exact .inr (.inr (.inr (.inr (.inr ⟨hi, .inr hm⟩))))

/-- Settles O43: of the five shapes of an event, only a tick and SYS_RESET write the counter. -/
theorem nowIsWrittenOnlyByTickAndReset : Obligations.NowIsWrittenOnlyByTickAndReset := by
  intro i s t h
  obtain ⟨l, rfl, rfl⟩ | ⟨hi, ht⟩ | ⟨m, n, hi, ht⟩ | ⟨v, hi, ht⟩ | ⟨rfl, ht⟩ := exec_next_shape h
  · exact .inl ⟨l, rfl, toNat_addW s.now 1⟩
  · refine .inr (.inr ⟨?_, ?_, by rw [ht]⟩) <;> fin_cases hi <;> simp
  · refine .inr (.inr ⟨?_, ?_, by rw [ht]⟩) <;> obtain ⟨k, d, rfl⟩ | ⟨k, rfl⟩ := hi <;> simp
  · refine .inr (.inr ⟨?_, ?_, by rw [ht, State.ret_now]⟩) <;> obtain ⟨k, rfl⟩ | ⟨k, rfl⟩ | ⟨k, rfl⟩ := hi <;> simp
  · exact .inr (.inl ⟨rfl, by rw [ht]⟩)

/-! ### The receiver state -/

/-- RX_STEP leaves the receiver state where it is or moves it one code up (10_state.md R27). -/
theorem Rx.step_rxState (cap : Idx) (r : Rx) (now : Tick) (s : Level) :
    (Rx.step cap r now s).rxState = r.rxState ∨
    (Rx.step cap r now s).rxState.code.toNat = r.rxState.code.toNat + 1 := by
  cases h : r.rxState with
  | waiting =>
    rw [Rx.step_waiting cap r now s h]
    obtain ⟨-, he⟩ | ⟨-, he⟩ := r.stepWaiting_cases now s
    · exact .inl (by rw [he, h])
    · exact .inr (by rw [he]; rfl)
  | clockSync =>
    rw [Rx.step_clockSync cap r now s h]
    obtain ⟨-, he⟩ | ⟨-, -, -, he⟩ | ⟨-, -, he⟩ := r.stepClockSync_cases now s
    · obtain ⟨-, ht⟩ | ⟨-, avg, -, ht⟩ := r.stepTransition_cases now s <;> exact .inl (by rw [he, ht, ← h])
    · exact .inr (by rw [he]; rfl)
    · exact .inl (by rw [he, h])
  | awaitFrame =>
    rw [Rx.step_awaitFrame cap r now s h]
    obtain ⟨-, he⟩ | ⟨-, -, he⟩ | ⟨-, -, he⟩ := r.stepAwaitFrame_cases now s
    · exact .inl (by rw [he, h])
    · exact .inl (by rw [he, ← h])
    · exact .inr (by rw [he]; rfl)
  | receiving =>
    rw [Rx.step_receiving cap r now s h]
    obtain ⟨-, he⟩ | ⟨-, b, m, -, -, ⟨-, he⟩ | ⟨-, he⟩⟩ := Rx.stepReceiving_cases cap r now s
    · exact .inl (by rw [he, h])
    · exact .inl (by rw [he, ← h])
    · rw [he]
      obtain ⟨-, hb⟩ | ⟨-, -, hb⟩ | ⟨-, -, hb⟩ := Rx.byteDone_cases cap
        { r with systimeNextSample := addW r.systimeNextSample r.avgPulseTime, bitBuffer := m } b
      · exact .inr (by rw [hb]; rfl)
      · exact .inr (by rw [hb]; rfl)
      · exact .inl (by rw [hb, ← h])
  | complete => exact .inl (by rw [Rx.step_complete cap r now s h, h])

/-- Settles O34: RX_STEP moves at most one code up, and every other writer of the receiver resets it to Waiting. -/
theorem receiverStateMovesOneCodeUpOrIsReset : Obligations.ReceiverStateMovesOneCodeUpOrIsReset := by
  intro i s t h
  obtain hr | ⟨l, rfl, hr⟩ | ⟨hr, hi⟩ := exec_next_rx h
  · exact .inl (by rw [hr])
  · rw [hr]
    obtain hs | hs := Rx.step_rxState s.params.rxCap s.rx (addW s.now 1) (sample s.params.loopback s.tx.txOut l)
    · exact .inl hs
    · exact .inr (.inl ⟨l, rfl, hs⟩)
  · exact .inr (.inr ⟨by rw [hr]; rfl, hi⟩)

end Sys2Proof.Machine
end

section
/-! Proofs of the register layouts and of RD_REG (10_state.md R43 to R47). -/

namespace Sys2Proof.Machine

section Fields

/-- Zero-extension keeps the value. -/
theorem toNat_zext32 {n : Nat} (hn : n ≤ 32) (v : BitVec n) : (zext32 v).toNat = v.toNat :=
  BitVec.toNat_setWidth_of_le hn

/-- A zero-extended value moved up by `j` places holds its own bits from bit `j` on. -/
theorem getLsbD_zext32_shiftLeft {n : Nat} (v : BitVec n) (j k : Nat) :
    (zext32 v <<< j).getLsbD k = (decide (k < 32) && decide (j ≤ k) && v.getLsbD (k - j)) := by
  simp only [zext32, BitVec.getLsbD_shiftLeft, BitVec.getLsbD_setWidth]
  by_cases hk : k < 32
  · by_cases hj : j ≤ k
    · simp [hk, hj, Nat.not_lt.2 hj, show k - j < 32 by omega]
    · simp [hk, hj, Nat.lt_of_not_le hj]
  · simp [hk]

/-- A flag moved up by `j` places is bit `j`. -/
theorem getLsbD_flagWord_shiftLeft (b : Bool) {j : Nat} (hj : j < 32) (k : Nat) :
    (flagWord b <<< j).getLsbD k = (decide (k = j) && b) := by
  cases b with
  | false => simp [flagWord]
  | true =>
    rw [Bool.eq_iff_iff]
    simp [flagWord, BitVec.getLsbD_shiftLeft]
    omega

/-- A field moved up to bit `j` adds to what lies below it. -/
theorem toNat_or_shiftLeft {w u : Word} {j : Nat} (hw : w.toNat < 2 ^ j) (hu : u.toNat * 2 ^ j < 2 ^ 32) :
    (w ||| u <<< j).toNat = w.toNat + u.toNat * 2 ^ j := by
  rw [BitVec.toNat_or, BitVec.toNat_shiftLeft, Nat.mod_eq_of_lt (by rwa [Nat.shiftLeft_eq]), Nat.or_comm,
    ← Nat.shiftLeft_add_eq_or_of_lt hw, Nat.shiftLeft_eq, Nat.add_comm]

/-- A field of a word is the value whose bits stand there. -/
theorem extractLsb'_eq_of_getLsbD {w : Word} {i n : Nat} {v : BitVec n}
    (h : ∀ k < n, w.getLsbD (i + k) = v.getLsbD k) : w.extractLsb' i n = v := by
  apply BitVec.eq_of_getLsbD_eq
  intro k hk
  rw [BitVec.getLsbD_extractLsb', h k hk, decide_eq_true hk, Bool.true_and]

end Fields

/-- The bits of STATUS: each of its eight parts at its place (10_state.md R44). -/
theorem State.getLsbD_status (s : State) {k : Nat} (hk : k < 32) : s.status.getLsbD k =
    (s.tx.txPhase.code.getLsbD k || (decide (k = 3) && s.tx.isDone) || (decide (k = 4) && s.tx.txOut) ||
      (decide (5 ≤ k) && s.rx.rxState.code.getLsbD (k - 5)) || (decide (k = 8) && s.rx.rxComplete) ||
      (decide (k = 9) && s.rx.lastBit) || (decide (16 ≤ k) && s.rx.bitBufferPos.getLsbD (k - 16)) ||
      (decide (28 ≤ k) && s.rx.bitBufferBit.getLsbD (k - 28))) := by
  have hphase : (zext32 s.tx.txPhase.code).getLsbD k = s.tx.txPhase.code.getLsbD k := by
    simp [zext32, hk]
  simp only [State.status, BitVec.getLsbD_or, hphase, getLsbD_zext32_shiftLeft, hk, decide_true, Bool.true_and,
    getLsbD_flagWord_shiftLeft _ (show 3 < 32 by decide), getLsbD_flagWord_shiftLeft _ (show 4 < 32 by decide),
    getLsbD_flagWord_shiftLeft _ (show 8 < 32 by decide), getLsbD_flagWord_shiftLeft _ (show 9 < 32 by decide)]

section StatusFields
variable (s : State)

theorem State.status_phase : s.status.extractLsb' 0 3 = s.tx.txPhase.code :=
  extractLsb'_eq_of_getLsbD fun k hk => by
    rw [s.getLsbD_status (by omega)]
    interval_cases k <;> simp

theorem State.status_rxState : s.status.extractLsb' 5 3 = s.rx.rxState.code :=
  extractLsb'_eq_of_getLsbD fun k hk => by
    rw [s.getLsbD_status (by omega)]
    interval_cases k <;> simp

theorem State.status_bufPos : s.status.extractLsb' 16 12 = s.rx.bitBufferPos :=
  extractLsb'_eq_of_getLsbD fun k hk => by
    rw [s.getLsbD_status (by omega)]
    interval_cases k <;> simp

theorem State.status_bufBit : s.status.extractLsb' 28 3 = s.rx.bitBufferBit :=
  extractLsb'_eq_of_getLsbD fun k hk => by
    rw [s.getLsbD_status (by omega)]
    interval_cases k <;> simp

theorem State.status_reserved : s.status.extractLsb' 10 6 = 0 :=
  extractLsb'_eq_of_getLsbD fun k hk => by
    rw [s.getLsbD_status (by omega)]
    interval_cases k <;> simp

end StatusFields

/-- Settles O49: field by field, the codes of the phase and of the receiver state case by case. -/
theorem statusHoldsItsFieldsAtTheirBits : Obligations.StatusHoldsItsFieldsAtTheirBits := by
  intro s
  have hdone : s.tx.isDone = decide (s.tx.txPhase = .done) := rfl
  have hcomplete : s.rx.rxComplete = decide (s.rx.rxState = .complete) := rfl
  rw [s.status_phase, s.status_rxState]
  refine ⟨?_, ?_, ?_, ?_, ?_, ?_, s.status_reserved, s.status_bufPos, s.status_bufBit, ?_⟩
  · exact ⟨congrArg TxPhase.code, congrArg TxPhase.code, congrArg TxPhase.code, congrArg TxPhase.code, congrArg TxPhase.code⟩
  · exact ⟨congrArg RxState.code, congrArg RxState.code, congrArg RxState.code, congrArg RxState.code, congrArg RxState.code⟩
  all_goals rw [s.getLsbD_status (by decide)]
  · simp [hdone]
  · simp
  · simp [hcomplete]
  · simp
  · simp

/-- The value of RX_FRAME: the frame count above the eight bits of the frame register (10_state.md R45). -/
theorem Rx.toNat_frameReg (r : Rx) : r.frameReg.toNat = r.frameShiftRegister.toNat + r.frameBitPos.toNat * 2 ^ 8 := by
  have hf := toNat_zext32 (by decide) r.frameShiftRegister
  have hp := toNat_zext32 (by decide) r.frameBitPos
  rw [Rx.frameReg, toNat_or_shiftLeft, hf, hp] <;> omega

/-- The value of CONFIG: LOOPBACK above the two 12-bit capacities (10_state.md R46). -/
theorem toNat_configReg (p : Params) :
    (configReg p).toNat = p.rxCap.toNat + p.txMax.toNat * 2 ^ 12 + (if p.loopback then 2 ^ 24 else 0) := by
  have hr := toNat_zext32 (by decide) p.rxCap
  have ht := toNat_zext32 (by decide) p.txMax
  have hcaps : (zext32 p.rxCap ||| zext32 p.txMax <<< 12).toNat = p.rxCap.toNat + p.txMax.toNat * 2 ^ 12 := by
    rw [toNat_or_shiftLeft, hr, ht] <;> omega
  have hflag : (flagWord p.loopback).toNat * 2 ^ 24 = if p.loopback then 2 ^ 24 else 0 := by
    cases p.loopback <;> rfl
  rw [configReg, toNat_or_shiftLeft, hcaps, hflag]
  · omega
  · rw [hflag]
    split <;> decide

/-- No event writes the parameters (10_state.md R46). -/
theorem exec_params {i : Instr} {s t : State} (h : exec i s = .next t) : t.params = s.params := by
  obtain ⟨l, -, ht⟩ | ⟨-, ht⟩ | ⟨m, n, -, ht⟩ | ⟨v, -, ht⟩ | ⟨-, ht⟩ := exec_next_shape h <;> rw [ht]
  · exact State.tick_params s l
  · exact State.ret_params s v

/-- Settles O50: the two layouts as values, and the parameters that no event writes. -/
theorem frameAndConfigRegistersHoldTheirFields : Obligations.FrameAndConfigRegistersHoldTheirFields :=
  ⟨Rx.toNat_frameReg, toNat_configReg, fun _ _ _ => exec_params⟩

/-- Settles O48: a number below 0x00D names a register, whose value is that of its field. -/
theorem rdRegReturnsTheNumberedRegister : Obligations.RdRegReturnsTheNumberedRegister := by
  intro s reg
  refine ⟨fun h => ?_, exec_rdReg_of_le s⟩
  obtain ⟨v, hv, he⟩ := exec_rdReg_of_lt s h
  refine ⟨v, he, ?_⟩
  have hval {k : Idx} {u : Word} (hu : s.readReg k.toNat = some u) (hk : reg = k) : v = u :=
    Option.some.inj (hv.symm.trans (hk ▸ hu))
  have hnat {k : Idx} {n : Nat} {u : BitVec n} (hn : n ≤ 32) (hu : s.readReg k.toNat = some (zext32 u)) (hk : reg = k) :
      v.toNat = u.toNat := by
    rw [hval hu hk, toNat_zext32 hn]
  exact ⟨hval rfl, hnat le_rfl rfl, hnat le_rfl rfl, hnat le_rfl rfl, hnat le_rfl rfl, hnat le_rfl rfl, hnat le_rfl rfl,
    hnat le_rfl rfl, hval rfl, hnat (by decide) rfl, hnat (by decide) rfl, hnat (by decide) rfl, hval rfl⟩

end Sys2Proof.Machine
end

section
/-! Proofs of the invariants of the state (10_state.md R24, R25, R36, R48 to R50), half by half, and of what holds of the refusal mark
(R52). -/

namespace Sys2Proof.Machine

/-! ### One step -/

/-- All a step can do: hold with nothing waiting; record a refusal, by the decoder or by value; or run the event of the first word. -/
theorem step_cases {s s' : State} (h : step s = .next s') :
    (s.events = [] ∧ s' = s) ∨
    ∃ w rest, s.events = w :: rest ∧
      ((∃ c, (decode w = .refused c ∨ ∃ i, decode w = .event i ∧ i.operandFault s.params = some c) ∧
          s' = (s.beginEvent rest).recordRefusal c) ∨
       (∃ i, decode w = .event i ∧ exec i (s.beginEvent rest) = .next s')) := by
  cases hs : s.events with
  | nil => exact .inl ⟨rfl, Host.Outcome.next.inj (h.symm.trans (step_of_nil hs))⟩
  | cons w rest =>
    rw [step_of_cons hs] at h
    refine .inr ⟨w, rest, rfl, ?_⟩
    cases hd : decode w with
    | refused c =>
      rw [takeWord_of_refused hd] at h
      exact .inl ⟨c, .inl rfl, (Host.Outcome.next.inj h).symm⟩
    | event i =>
      cases hf : i.operandFault s.params with
      | some c =>
        rw [takeWord_of_operandFault (s := s.beginEvent rest) hd hf] at h
        exact .inl ⟨c, .inr ⟨i, rfl, hf⟩, (Host.Outcome.next.inj h).symm⟩
      | none =>
        obtain ⟨t, ht⟩ := exec_next_of_wellFormed (s := s.beginEvent rest) hf
        rw [takeWord_of_event hd, ht, settle_next] at h
        exact .inr ⟨i, rfl, ht.trans h⟩

/-! ### The transmitter half of the structural invariant -/

/-- The transmitter part of `State.Inv`, for a TX_MAX of `n`: buffers canonical and in range, lengths, position (R24, R25, R50). -/
structure Tx.Ok (n : Nat) (t : Tx) : Prop where
  stage_wf : t.stage.wf = true
  stage_below : t.stage.Below n
  payload_wf : t.payload.wf = true
  payload_below : t.payload.Below n
  stageLen_le : t.stageLen.toNat ≤ n
  payloadLen_le : t.payloadLen.toNat ≤ n
  position : t.PositionOk

section TxOk
variable {n : Nat} {t : Tx}

theorem Tx.ok_reset (n : Nat) : Tx.reset.Ok n :=
  ⟨rfl, Mem.below_nil n, rfl, Mem.below_nil n, Nat.zero_le n, Nat.zero_le n, by simp [Tx.reset, Tx.PositionOk]⟩

theorem Tx.Ok.start (h : t.Ok n) : t.start.Ok n :=
  ⟨h.stage_wf, h.stage_below, h.stage_wf, h.stage_below, h.stageLen_le, h.stageLen_le, by simp [Tx.start, Tx.PositionOk]⟩

theorem Tx.Ok.stop (h : t.Ok n) : t.stop.Ok n :=
  ⟨h.stage_wf, h.stage_below, h.payload_wf, h.payload_below, h.stageLen_le, h.payloadLen_le,
    by simp [Tx.stop, Tx.PositionOk]⟩

theorem Tx.Ok.writeStage (h : t.Ok n) {i : Nat} (hi : i < n) (v : Byte) : ({ t with stage := t.stage.write i v } : Tx).Ok n :=
  { h with stage_wf := Mem.wf_write h.stage_wf i v, stage_below := Mem.below_write h.stage_below hi v }

theorem Tx.Ok.setStageLen (h : t.Ok n) {k : Idx} (hk : k.toNat ≤ n) : ({ t with stageLen := k } : Tx).Ok n :=
  { h with stageLen_le := hk }

/-- A position the rules advance is one more on naturals: no phase lets it wrap. -/
theorem toNat_succ_of_lt {m : Nat} {p : BitVec 16} (h : p.toNat < m) (hm : m < 2 ^ 16) : (p + 1).toNat = p.toNat + 1 := by
  rw [BitVec.toNat_add]
  exact Nat.mod_eq_of_lt (show p.toNat + 1 < 2 ^ 16 by omega)

/-- TX_TICK keeps the transmitter invariant R50: a phase ends after its eighth position, and the data after `8 * payloadLen`. -/
theorem Tx.positionOk_tick (h : t.PositionOk) : t.tick.PositionOk := by
  have ⟨hpre, hdata, _⟩ := h
  have hlen : 8 * t.payloadLen.toNat < 2 ^ 16 := by have := t.payloadLen.isLt; omega
  have hnext (hle : t.bitPosition.toNat ≤ 7) (hne : t.bitPosition + 1 ≠ 8) : (t.bitPosition + 1).toNat ≤ 7 := by
    have hs := toNat_succ_of_lt (Nat.lt_succ_of_le hle) (by decide)
    have h8 : (t.bitPosition + 1).toNat ≠ 8 := fun he => hne (BitVec.eq_of_toNat_eq he)
    omega
  obtain ⟨-, he⟩ | ⟨hp, hne, he⟩ | ⟨-, -, he⟩ | ⟨hp, hne, he⟩ | ⟨-, -, he⟩ | ⟨hp, hlt, he⟩ | ⟨hp, -, he⟩ :=
    t.tick_cases <;> rw [he]
  · exact h
  · simpa [Tx.PositionOk, hp] using hnext (hpre (.inl hp)) hne
  · simp [Tx.PositionOk]
  · simpa [Tx.PositionOk, hp] using hnext (hpre (.inr hp)) hne
  · simp [Tx.PositionOk]
  · have hs := toNat_succ_of_lt hlt hlen
    have hle : (t.bitPosition + 1).toNat ≤ 8 * t.payloadLen.toNat := by omega
    simpa [Tx.PositionOk, hp] using hle
  · simpa [Tx.PositionOk] using hdata (.inl hp)

theorem Tx.Ok.tick (h : t.Ok n) : t.tick.Ok n := by
  obtain ⟨hp, hlen, hst, hsl⟩ := t.tick_frame
  constructor
  · rw [hst]; exact h.stage_wf
  · rw [hst]; exact h.stage_below
  · rw [hp]; exact h.payload_wf
  · rw [hp]; exact h.payload_below
  · rw [hsl]; exact h.stageLen_le
  · rw [hlen]; exact h.payloadLen_le
  · exact Tx.positionOk_tick h.position

end TxOk

/-! ### The receiver half of the structural invariant -/

/-- The receiver part of `State.Inv`, for an RX_CAP of `n`: buffer canonical and in range, cursor, frame count (R36, R49). -/
structure Rx.Ok (n : Nat) (r : Rx) : Prop where
  buffer_wf : r.bitBuffer.wf = true
  buffer_below : r.bitBuffer.Below n
  pos_le : r.bitBufferPos.toNat ≤ n
  pos_lt : r.rxState ≠ .complete → r.bitBufferPos.toNat < n
  frame : r.FrameCountOk

section RxOk
variable {cap : Idx} {r : Rx} {now : Tick} {s : Level}

theorem Rx.ok_reset {n : Nat} (hn : 1 ≤ n) : Rx.reset.Ok n :=
  ⟨rfl, Mem.below_nil n, Nat.zero_le n, fun _ => hn, Nat.zero_le 8⟩

/-- BYTE_DONE keeps the invariant: the cursor moves past the byte just ended, and a full buffer is Complete (R49, R150). -/
theorem Rx.Ok.byteDone (h : r.Ok cap.toNat) (hlt : r.bitBufferPos.toNat < cap.toNat) (b : Byte) :
    (Rx.byteDone cap r b).Ok cap.toNat := by
  have hpos : (r.bitBufferPos + 1).toNat = r.bitBufferPos.toNat + 1 := by
    rw [BitVec.toNat_add]
    have := cap.isLt
    exact Nat.mod_eq_of_lt (show r.bitBufferPos.toNat + 1 < 2 ^ 12 by omega)
  obtain ⟨-, he⟩ | ⟨-, -, he⟩ | ⟨-, hne, he⟩ := Rx.byteDone_cases cap r b <;> rw [he]
  · exact { h with pos_lt := fun hc => absurd rfl hc }
  · exact { h with pos_le := hpos.trans_le hlt, pos_lt := fun hc => absurd rfl hc }
  · have hlt' : (r.bitBufferPos + 1).toNat < cap.toNat :=
      lt_of_le_of_ne (hpos.trans_le hlt) fun he => hne (BitVec.eq_of_toNat_eq he)
    exact { h with pos_le := hlt'.le, pos_lt := fun _ => hlt' }

/-- Writing a byte of the buffer keeps the invariant, whatever the next sample instant. -/
theorem Rx.Ok.writeBuffer (h : r.Ok cap.toNat) (i : Nat) (b : Byte) (next : Tick) :
    ({ r with systimeNextSample := next, bitBuffer := Mem.writeIn cap.toNat r.bitBuffer i b } : Rx).Ok cap.toNat :=
  { h with buffer_wf := Mem.wf_writeIn h.buffer_wf _ i b, buffer_below := Mem.below_writeIn h.buffer_below i b }

/-- RX_STEP in Receiving keeps the invariant: the byte is written in range, and the cursor moves only at a byte's end. -/
theorem Rx.Ok.stepReceiving (h : r.Ok cap.toNat) (hr : r.rxState = .receiving) :
    (Rx.stepReceiving cap r now s).Ok cap.toNat := by
  have hlt : r.bitBufferPos.toNat < cap.toNat := h.pos_lt (by simp [hr])
  obtain ⟨-, he⟩ | ⟨-, b, m, -, rfl, ⟨-, he⟩ | ⟨-, he⟩⟩ := Rx.stepReceiving_cases cap r now s <;> rw [he]
  · exact h
  · exact { h.writeBuffer r.bitBufferPos.toNat b (addW r.systimeNextSample r.avgPulseTime) with }
  · exact (h.writeBuffer r.bitBufferPos.toNat b (addW r.systimeNextSample r.avgPulseTime)).byteDone hlt b

/-- RX_STEP in AwaitFrame keeps the invariant: the count saturates at 8, and a match starts the frame at cursor 0. -/
theorem Rx.Ok.stepAwaitFrame (h : r.Ok cap.toNat) (hcap : 1 ≤ cap.toNat) : (r.stepAwaitFrame now s).Ok cap.toNat := by
  have hframe : (saturate8 r.frameBitPos).toNat ≤ 8 := by rw [toNat_saturate8]; exact Nat.min_le_right _ _
  obtain ⟨-, he⟩ | ⟨-, -, he⟩ | ⟨-, -, he⟩ := r.stepAwaitFrame_cases now s <;> rw [he]
  · exact h
  · exact { h with frame := hframe }
  · exact { h with frame := hframe, pos_le := Nat.zero_le _, pos_lt := fun _ => hcap }

/-- RX_STEP in ClockSync keeps the invariant: it touches neither the buffer nor the cursor, and an exit starts the frame count at 0. -/
theorem Rx.Ok.stepClockSync (h : r.Ok cap.toNat) (hr : r.rxState = .clockSync) : (r.stepClockSync now s).Ok cap.toNat := by
  have hlt : r.bitBufferPos.toNat < cap.toNat := h.pos_lt (by simp [hr])
  obtain ⟨-, he⟩ | ⟨-, -, -, he⟩ | ⟨-, -, he⟩ := r.stepClockSync_cases now s <;> rw [he]
  · obtain ⟨-, ht⟩ | ⟨-, avg, -, ht⟩ := r.stepTransition_cases now s <;> rw [ht] <;> exact { h with }
  · exact { h with pos_lt := fun _ => hlt, frame := Nat.zero_le 8 }
  · exact h

/-- RX_STEP in Waiting keeps the invariant: the first transition touches neither the buffer nor the cursor. -/
theorem Rx.Ok.stepWaiting (h : r.Ok cap.toNat) (hr : r.rxState = .waiting) : (r.stepWaiting now s).Ok cap.toNat := by
  have hlt : r.bitBufferPos.toNat < cap.toNat := h.pos_lt (by simp [hr])
  obtain ⟨-, he⟩ | ⟨-, he⟩ := r.stepWaiting_cases now s <;> rw [he]
  · exact h
  · exact { h with pos_lt := fun _ => hlt }

theorem Rx.Ok.step (h : r.Ok cap.toNat) (hcap : 1 ≤ cap.toNat) : (Rx.step cap r now s).Ok cap.toNat := by
  cases hr : r.rxState with
  | waiting => rw [Rx.step_waiting cap r now s hr]; exact h.stepWaiting hr
  | clockSync => rw [Rx.step_clockSync cap r now s hr]; exact h.stepClockSync hr
  | awaitFrame => rw [Rx.step_awaitFrame cap r now s hr]; exact h.stepAwaitFrame hcap
  | receiving => rw [Rx.step_receiving cap r now s hr]; exact h.stepReceiving hr
  | complete => rw [Rx.step_complete cap r now s hr]; exact h

end RxOk

/-! ### The structural invariant -/

/-- The structural invariant half by half. -/
theorem State.inv_iff (s : State) :
    s.Inv ↔ s.params.Legal ∧ s.tx.Ok s.params.txMax.toNat ∧ s.rx.Ok s.params.rxCap.toNat := by
  constructor
  · rintro ⟨hl, ⟨⟨hsw, hsb⟩, ⟨hpw, hpb⟩, hbw, hbb⟩, ⟨hsl, hpl⟩, ⟨hle, -, hfull⟩, hpos, hframe⟩
    exact ⟨hl, ⟨hsw, hsb, hpw, hpb, hsl, hpl, hpos⟩,
      ⟨hbw, hbb, hle, fun hc => lt_of_le_of_ne hle fun he => hc (hfull he), hframe⟩⟩
  · rintro ⟨hl, ⟨hsw, hsb, hpw, hpb, hsl, hpl, hpos⟩, ⟨hbw, hbb, hle, hlt, hframe⟩⟩
    refine ⟨hl, ⟨⟨hsw, hsb⟩, ⟨hpw, hpb⟩, hbw, hbb⟩, ⟨hsl, hpl⟩, ⟨hle, fun hr => hlt (by simp [hr]), fun he => ?_⟩,
      hpos, hframe⟩
    by_contra hc
    exact (hlt hc).ne he

section Inv
variable {s t : State}

theorem State.Inv.withTx (h : s.Inv) {u : Tx} (hu : u.Ok s.params.txMax.toNat) : (s.withTx u).Inv := by
  obtain ⟨hl, -, hrx⟩ := s.inv_iff.1 h
  exact (State.inv_iff _).2 ⟨hl, hu, hrx⟩

theorem State.Inv.withRx (h : s.Inv) {r : Rx} (hr : r.Ok s.params.rxCap.toNat) : (s.withRx r).Inv := by
  obtain ⟨hl, htx, -⟩ := s.inv_iff.1 h
  exact (State.inv_iff _).2 ⟨hl, htx, hr⟩

theorem State.Inv.recordRefusal (h : s.Inv) (c : RefCode) : (s.recordRefusal c).Inv := by
  rw [State.recordRefusal_eq]; exact h

theorem State.Inv.tick (h : s.Inv) (l : Level) : (s.tick l).Inv := by
  obtain ⟨hl, htx, hrx⟩ := s.inv_iff.1 h
  exact (State.inv_iff _).2 ⟨hl, htx.tick, hrx.step hl.1⟩

/-- Each operation of CTRL_MAP keeps the invariant. -/
theorem State.Inv.apply (o : CtrlOp) (s : State) (h : s.Inv) : (CtrlOp.apply o s).Inv := by
  obtain ⟨hl, htx, -⟩ := s.inv_iff.1 h
  cases o with
  | txStart => exact h.withTx htx.start
  | txStop => exact h.withTx htx.stop
  | rxInit => exact h.withRx (Rx.ok_reset hl.1)

theorem State.Inv.ctrlSeq (h : s.Inv) (os : List CtrlOp) : (ctrlSeq os s).Inv := ctrlSeq_induct State.Inv.apply os s h

/-- The power-on halves keep to the invariant, whatever stands beside them. -/
theorem State.inv_of_reset (hl : s.params.Legal) (htx : s.tx = Tx.reset) (hrx : s.rx = Rx.reset) : s.Inv := by
  rw [State.inv_iff, htx, hrx]
  exact ⟨hl, Tx.ok_reset _, Rx.ok_reset hl.1⟩

/-- Every event keeps the structural invariant. -/
theorem exec_keeps_inv {i : Instr} (hs : s.Inv) (h : exec i s = .next t) : t.Inv := by
  obtain ⟨hl, htx, -⟩ := s.inv_iff.1 hs
  cases i with
  | tick l => cases h; exact hs.tick l
  | txStart | txStop | rxInit | ctrlRise | ctrlFall => rw [eq_ctrlSeq_of_exec (by simp) h]; exact hs.ctrlSeq _
  | wrStage idx data =>
    obtain ⟨hi, rfl⟩ := exec_wrStage_next h
    exact hs.withTx (htx.writeStage hi data)
  | wrStageLen n =>
    obtain ⟨hn, rfl⟩ := exec_wrStageLen_next h
    exact hs.withTx (htx.setStageLen hn)
  | rdReg reg => obtain ⟨v, -, rfl⟩ := exec_rdReg_next h; exact hs
  | rdRxbuf idx => obtain ⟨-, rfl⟩ := exec_rdRxbuf_next h; exact hs
  | rdStage idx => obtain ⟨-, rfl⟩ := exec_rdStage_next h; exact hs
  | sysReset => cases h; exact State.inv_of_reset hl rfl rfl

end Inv

/-- Settles O56: the power-on state is both halves reset. -/
theorem invariantHoldsAtPowerOn : Obligations.InvariantHoldsAtPowerOn :=
  ⟨fun _ hp => State.inv_of_reset hp rfl rfl, State.inv_of_reset (by decide) rfl rfl⟩

/-- Settles O57: taking the word from the queue and recording a refusal touch nothing of the invariant, and every event keeps it. -/
theorem everyStepKeepsTheInvariant : Obligations.EveryStepKeepsTheInvariant := by
  intro s s' hs h
  obtain ⟨-, rfl⟩ | ⟨w, rest, -, ⟨c, -, rfl⟩ | ⟨i, -, hi⟩⟩ := step_cases h
  · exact hs
  · exact State.Inv.recordRefusal (s := s.beginEvent rest) hs c
  · exact exec_keeps_inv (s := s.beginEvent rest) hs hi

/-! ### The estimator invariant -/

section Estimator
variable {cap : Idx} {r : Rx} {now : Tick} {s : Level}

/-- The estimator invariant is about three fields, so whatever keeps them keeps it. -/
theorem Rx.EstimatorOk.of_eq {r' : Rx} (h : r.EstimatorOk) (hn : r'.numPulses = r.numPulses)
    (ht : r'.pulseTimeTotal = r.pulseTimeTotal) (ha : r'.avgPulseTime = r.avgPulseTime) : r'.EstimatorOk := by
  simpa only [Rx.EstimatorOk, hn, ht, ha] using h

theorem Rx.estimatorOk_reset : Rx.reset.EstimatorOk := by decide

/-- A transition keeps the invariant: an interval of at least 1 tick is folded in with no wrap, so the total stays at least the count
and their quotient at least 1 (R143, R144). -/
theorem Rx.EstimatorOk.stepTransition (h : r.EstimatorOk) (hone : 1 ≤ (subW now r.systimePrevPulse).toNat)
    (hwrap : r.pulseTimeTotal.toNat + (subW now r.systimePrevPulse).toNat < 2 ^ tickW) :
    (r.stepTransition now s).EstimatorOk := by
  obtain ⟨hle, hzero, -⟩ := h
  have htotal : (addW r.pulseTimeTotal (subW now r.systimePrevPulse)).toNat =
      r.pulseTimeTotal.toNat + (subW now r.systimePrevPulse).toNat := by
    rw [toNat_addW, Nat.mod_eq_of_lt hwrap]
  have hcount : (addW r.numPulses 1).toNat = r.numPulses.toNat + 1 := by
    rw [toNat_addW]
    exact Nat.mod_eq_of_lt (show r.numPulses.toNat + 1 < 2 ^ tickW by omega)
  have hle' : (addW r.numPulses 1).toNat ≤ (addW r.pulseTimeTotal (subW now r.systimePrevPulse)).toNat := by omega
  obtain ⟨hlt, he⟩ | ⟨hge, avg, havg, he⟩ := r.stepTransition_cases now s <;> rw [he]
  · exact ⟨hle', fun _ => hzero (by omega), fun hge => absurd hge hlt⟩
  · have hquot : 1 ≤ avg.toNat := by
      rw [havg, BitVec.toNat_udiv]
      exact (Nat.one_le_div_iff (by omega)).2 hle'
    exact ⟨hle', fun hlt => absurd hge (not_le.2 hlt), fun _ => hquot⟩

/-- RX_STEP keeps the estimator invariant where the next interval is at least 1 tick and does not wrap the total. -/
theorem Rx.EstimatorOk.step (h : r.EstimatorOk) (hone : 1 ≤ (subW now r.systimePrevPulse).toNat)
    (hwrap : r.pulseTimeTotal.toNat + (subW now r.systimePrevPulse).toNat < 2 ^ tickW) :
    (Rx.step cap r now s).EstimatorOk := by
  cases hr : r.rxState with
  | waiting =>
    rw [Rx.step_waiting cap r now s hr]
    obtain ⟨-, he⟩ | ⟨-, he⟩ := r.stepWaiting_cases now s <;> rw [he]
    · exact h
    · exact Rx.estimatorOk_reset.of_eq rfl rfl rfl
  | clockSync =>
    rw [Rx.step_clockSync cap r now s hr]
    obtain ⟨-, he⟩ | ⟨-, -, -, he⟩ | ⟨-, -, he⟩ := r.stepClockSync_cases now s <;> rw [he]
    · exact h.stepTransition hone hwrap
    · exact h.of_eq rfl rfl rfl
    · exact h
  | awaitFrame =>
    rw [Rx.step_awaitFrame cap r now s hr]
    obtain ⟨-, he⟩ | ⟨-, -, he⟩ | ⟨-, -, he⟩ := r.stepAwaitFrame_cases now s <;> rw [he] <;> exact h.of_eq rfl rfl rfl
  | receiving =>
    rw [Rx.step_receiving cap r now s hr]
    obtain ⟨-, he⟩ | ⟨-, b, m, -, -, ⟨-, he⟩ | ⟨-, he⟩⟩ := Rx.stepReceiving_cases cap r now s <;> rw [he]
    · exact h
    · exact h.of_eq rfl rfl rfl
    · obtain ⟨-, hb⟩ | ⟨-, -, hb⟩ | ⟨-, -, hb⟩ := Rx.byteDone_cases cap
        { r with systimeNextSample := addW r.systimeNextSample r.avgPulseTime, bitBuffer := m } b <;>
        rw [hb] <;> exact h.of_eq rfl rfl rfl
  | complete => rw [Rx.step_complete cap r now s hr]; exact h

end Estimator

/-- Settles O58: an event leaves the receiver alone, resets it, or runs RX_STEP inside the horizon. -/
theorem everyEventKeepsTheEstimatorInvariant : Obligations.EveryEventKeepsTheEstimatorInvariant := by
  rintro i s t hs ⟨hone, hwrap⟩ h
  obtain hr | ⟨l, -, hr⟩ | ⟨hr, -⟩ := exec_next_rx h <;> rw [hr]
  · exact hs
  · exact hs.step hone hwrap
  · exact Rx.estimatorOk_reset

/-! ### The refusal mark -/

/-- The state with refusal mark `m`. -/
def State.withMark (s : State) (m : Option RefCode) : State := { s with refusalMark := m }

section Mark
variable {s t : State}

/-- No event writes the refusal mark. -/
theorem exec_refusalMark {i : Instr} (h : exec i s = .next t) : t.refusalMark = s.refusalMark := by
  obtain ⟨l, -, ht⟩ | ⟨-, ht⟩ | ⟨m, n, -, ht⟩ | ⟨v, -, ht⟩ | ⟨-, ht⟩ := exec_next_shape h <;> rw [ht]
  · exact State.tick_refusalMark s l
  · exact State.ret_refusalMark s v

theorem ctrlSeq_withMark (m : Option RefCode) (os : List CtrlOp) (s : State) :
    ctrlSeq os (s.withMark m) = (ctrlSeq os s).withMark m := by
  induction os generalizing s with
  | nil => rfl
  | cons o os ih => rw [ctrlSeq, ctrlSeq, ← ih]; cases o <;> rfl

/-- No event reads the refusal mark: under any other mark it does the same. -/
theorem exec_withMark {i : Instr} (m : Option RefCode) (h : exec i s = .next t) :
    exec i (s.withMark m) = .next (t.withMark m) := by
  cases i with
  | tick l => cases h; rfl
  | txStart | txStop | rxInit | sysReset => cases h; rfl
  | ctrlRise => cases h; exact congrArg Host.Outcome.next (ctrlSeq_withMark m _ s)
  | ctrlFall => cases h; exact congrArg Host.Outcome.next (ctrlSeq_withMark m _ s)
  | wrStage idx data =>
    obtain ⟨hi, rfl⟩ := exec_wrStage_next h
    exact exec_wrStage_of_lt (s.withMark m) hi data
  | wrStageLen n =>
    obtain ⟨hn, rfl⟩ := exec_wrStageLen_next h
    exact exec_wrStageLen_of_le (s.withMark m) hn
  | rdReg reg =>
    obtain ⟨v, hv, rfl⟩ := exec_rdReg_next h
    exact exec_rdReg_of_some (s.withMark m) hv
  | rdRxbuf idx =>
    obtain ⟨hi, rfl⟩ := exec_rdRxbuf_next h
    exact exec_rdRxbuf_of_lt (s.withMark m) hi
  | rdStage idx =>
    obtain ⟨hi, rfl⟩ := exec_rdStage_next h
    exact exec_rdStage_of_lt (s.withMark m) hi

end Mark

/-- Settles O13: an event that runs neither reads nor writes the mark, and a refusal leaves a set mark set. -/
theorem refusalMarkIsNeverReadNorCleared : Obligations.RefusalMarkIsNeverReadNorCleared := by
  intro s s' m h
  obtain ⟨hs, rfl⟩ | ⟨w, rest, hs, ⟨c, hc, rfl⟩ | ⟨i, hd, hi⟩⟩ := step_cases h
  · exact ⟨id, m, step_of_nil hs⟩
  · refine ⟨fun _ => by simp, some (m.getD c), ?_⟩
    rw [State.recordRefusal_eq]
    exact refusedEventOnlySetsTheMark { s with refusalMark := m } w rest c hs hc
  · constructor
    · rw [exec_refusalMark hi]
      exact id
    · refine ⟨m, ?_⟩
      rw [step_of_cons (s := { s with refusalMark := m }) hs, takeWord_of_event hd]
      exact congrArg (settle _) (exec_withMark m hi)

end Sys2Proof.Machine
end

section
/-! Proofs of the statements on the order and the repetition of events (20_memory.md R67, R71). -/

namespace Sys2Proof.Machine

/-- Settles O8: an event that passes the operand checks has a next state, so no refusal is recorded. -/
theorem stepRunsTheFirstWaitingEvent : Obligations.StepRunsTheFirstWaitingEvent := by
  intro s w rest i hs hd hw
  obtain ⟨t, ht⟩ := exec_next_of_wellFormed (s := s.beginEvent rest) hw
  rw [step_of_cons hs, takeWord_of_event hd, ht, settle_next]
  exact ht.symm

/-- A byte written twice to one index of a canonical buffer is written once. -/
theorem Mem.write_write_same {m : Mem} (h : m.wf = true) (i : Nat) (v : Byte) : (m.write i v).write i v = m.write i v := by
  have hw := Mem.wf_write h i v
  refine Mem.ext_of_wf (Mem.wf_write hw i v) hw fun k => ?_
  by_cases hk : k = i
  · rw [hk, Mem.read_write_same hw, Mem.read_write_same h]
  · exact Mem.read_write_other _ hk v

section Repeat
variable {s t : State} {i : Instr} {idx : Idx} {data : Byte}

/-- A read changes the output alone and reads nothing of it, so the second read returns what the first returned. -/
theorem exec_read_repeats (hi : i ∈ [Instr.rdReg idx, .rdRxbuf idx, .rdStage idx]) (h : exec i s = .next t) :
    t = { s with output := t.output } ∧ exec i t = .next t := by
  fin_cases hi
  · obtain ⟨v, hv, rfl⟩ := exec_rdReg_next h
    exact ⟨rfl, exec_rdReg_of_some (s.ret v) hv⟩
  · obtain ⟨hlt, rfl⟩ := exec_rdRxbuf_next h
    exact ⟨rfl, exec_rdRxbuf_of_lt (s.ret _) hlt⟩
  · obtain ⟨hlt, rfl⟩ := exec_rdStage_next h
    exact ⟨rfl, exec_rdStage_of_lt (s.ret _) hlt⟩

/-- The staged byte is already the one written when the same WR_STAGE is taken again. -/
theorem exec_wrStage_idem (hs : s.tx.stage.wf = true) (h : exec (.wrStage idx data) s = .next t) :
    exec (.wrStage idx data) t = .next t := by
  obtain ⟨hlt, rfl⟩ := exec_wrStage_next h
  have he := exec_wrStage_of_lt (s.withTx { s.tx with stage := s.tx.stage.write idx.toNat data }) hlt data
  rwa [State.withTx_tx, Mem.write_write_same hs] at he

/-- The staged length is already the one written when the same WR_STAGE_LEN is taken again. -/
theorem exec_wrStageLen_idem (h : exec (.wrStageLen idx) s = .next t) : exec (.wrStageLen idx) t = .next t := by
  obtain ⟨hle, rfl⟩ := exec_wrStageLen_next h
  exact exec_wrStageLen_of_le (s.withTx _) hle

end Repeat

/-- Settles O53: each read and each write, taken again in the state it left, leaves that state. -/
theorem readsRepeatAndWritesAreIdempotent : Obligations.ReadsRepeatAndWritesAreIdempotent := by
  intro s t idx data hs
  refine ⟨fun i hi h => exec_read_repeats hi h, fun i hi h => ?_⟩
  fin_cases hi
  · exact exec_wrStage_idem hs h
  · exact exec_wrStageLen_idem h

end Sys2Proof.Machine
end

section
/-! Proofs of the statements on the event word (30_encoding.md R84 to R90): the two round trips, the value of a word, the refusals by
name, and the opcode table. -/

namespace Sys2Proof

/-! ### What OP selects -/

section OpSelects
variable {op : BitVec 4} {w : Word} {f : Format} {i : Instr}

/-- OP selects an event exactly when it selects a format. -/
theorem isSome_eventOf (op : BitVec 4) (w : Word) : (eventOf op w).isSome = (formatOf op).isSome := by
  obtain ⟨⟨n, hn⟩⟩ := op
  interval_cases n <;> rfl

theorem exists_eventOf (h : formatOf op = some f) (w : Word) : ∃ i, eventOf op w = some i :=
  Option.isSome_iff_exists.1 (by rw [isSome_eventOf, h, Option.isSome_some])

/-- The event OP selects has OP as its opcode. -/
theorem opcode_of_eventOf (h : eventOf op w = some i) : i.opcode = op := by
  obtain ⟨⟨n, hn⟩⟩ := op
  interval_cases n <;> cases h <;> rfl

theorem formatOf_eq_none_iff : formatOf op = none ↔ 0xC ≤ op.toNat := by decide +revert
theorem formatOf_eq_t_iff : formatOf op = some .t ↔ op = 0x0 := by decide +revert
theorem formatOf_eq_n_iff : formatOf op = some .n ↔ op ∈ [0x1, 0x2, 0x3, 0x4, 0x5, 0xB] := by decide +revert
theorem formatOf_eq_i_iff : formatOf op = some .i ↔ op ∈ [0x7, 0x8, 0x9, 0xA] := by decide +revert
theorem formatOf_eq_id_iff : formatOf op = some .id ↔ op = 0x6 := by decide +revert

end OpSelects

/-! ### Decoding an encoded event -/

/-- A word packed from an OP of format I and an index decodes to the event OP selects. -/
theorem decode_packFields_of_i {op : BitVec 4} {idx : Idx} {i : Instr} (hf : formatOf op = some .i)
    (hi : eventOf op (packFields op idx 0) = some i) : decode (packFields op idx 0) = .event i :=
  decode_event_of (f := .i) (by rwa [opField_packFields]) (by rwa [opField_packFields]) (packFields_and_low op idx)

/-- Settles O2: OP selects the event's format and its constructor, the fields give its operands back, and the reserved bits are 0. -/
theorem decodeOfEncodeGivesTheEventBack : Obligations.DecodeOfEncodeGivesTheEventBack := by
  intro i
  cases i with
  | tick l => cases l <;> decide
  | txStart | txStop | rxInit | ctrlRise | ctrlFall | sysReset => decide
  | wrStage idx data =>
    refine decode_event_of (f := .id) ?_ ?_ (packFields_and_mid 0x6 idx data)
    · exact congrArg formatOf (opField_packFields 0x6 idx data)
    · simp [encode, Instr.opcode, eventOf]
  | wrStageLen n => exact decode_packFields_of_i rfl (congrArg (some ∘ Instr.wrStageLen) (idxField_packFields _ n _))
  | rdReg r => exact decode_packFields_of_i rfl (congrArg (some ∘ Instr.rdReg) (idxField_packFields _ r _))
  | rdRxbuf k => exact decode_packFields_of_i rfl (congrArg (some ∘ Instr.rdRxbuf) (idxField_packFields _ k _))
  | rdStage k => exact decode_packFields_of_i rfl (congrArg (some ∘ Instr.rdStage) (idxField_packFields _ k _))

/-! ### Encoding a decoded word -/

section Repack
variable {w m : Word} {op : BitVec 4}

/-- A field that a mask covers is 0 where the masked word is. -/
theorem extractLsb'_eq_zero_of_and {i n : Nat} (h : w &&& m = 0) (hm : m.extractLsb' i n = BitVec.allOnes n) :
    w.extractLsb' i n = 0 := by
  have hf := congrArg (BitVec.extractLsb' i n) h
  rwa [BitVec.extractLsb'_and, hm, BitVec.and_allOnes, BitVec.ofNat_eq_ofNat, BitVec.extractLsb'_zero] at hf

/-- Where the masked word is 0, so is the word under any part of the mask. -/
theorem and_eq_zero_of_and_eq_self {m' : Word} (h : w &&& m = 0) (hm : m &&& m' = m') : w &&& m' = 0 := by
  rw [← hm, ← BitVec.and_assoc, h]
  exact BitVec.zero_and

/-- A byte that is 0 in its bits 7:1 is the level in its bit 0. -/
theorem byte_eq_level (b : Byte) (h : b &&& 0xFE = 0) : b = if b.getLsbD 0 then 1 else 0 := by decide +revert

theorem dataField_eq_level (h : w &&& Format.t.reservedMask = 0) : dataField w = if levelField w then 1 else 0 := by
  have hf := congrArg dataField h
  rw [dataField, BitVec.extractLsb'_and] at hf
  have hl : levelField w = (dataField w).getLsbD 0 := by simp [levelField, dataField]
  rw [hl]
  exact byte_eq_level _ hf

/-- A word of format ID whose reserved bits are 0 is packed from OP, IDX and DATA. -/
theorem packFields_of_id (hop : opField w = op) (h : w &&& Format.id.reservedMask = 0) :
    packFields op (idxField w) (dataField w) = w := by
  rw [← hop]
  exact packFields_fields w h

/-- A word of format I whose reserved bits are 0 is packed from OP and IDX. -/
theorem packFields_of_i (hop : opField w = op) (h : w &&& Format.i.reservedMask = 0) :
    packFields op (idxField w) 0 = w := by
  have hd : dataField w = 0 := extractLsb'_eq_zero_of_and h (by decide)
  rw [← hd]
  exact packFields_of_id hop (and_eq_zero_of_and_eq_self h (by decide))

/-- A word of format N whose reserved bits are 0 is packed from OP alone. -/
theorem packFields_of_n (hop : opField w = op) (h : w &&& Format.n.reservedMask = 0) : packFields op 0 0 = w := by
  have hi : idxField w = 0 := extractLsb'_eq_zero_of_and h (by decide)
  rw [← hi]
  exact packFields_of_i hop (and_eq_zero_of_and_eq_self h (by decide))

/-- A word of format T whose reserved bits are 0 is packed from OP and L. -/
theorem packFields_of_t (hop : opField w = op) (h : w &&& Format.t.reservedMask = 0) :
    packFields op 0 (if levelField w then 1 else 0) = w := by
  have hi : idxField w = 0 := extractLsb'_eq_zero_of_and h (by decide)
  rw [← hi, ← dataField_eq_level h]
  exact packFields_of_id hop (and_eq_zero_of_and_eq_self h (by decide))

end Repack

/-- What a word that decodes to an event holds: the event's opcode, its operands, and 0 in the reserved bits of its format. -/
theorem fields_of_decode {w : Word} {i : Instr} (h : decode w = .event i) :
    ∃ f, opField w = i.opcode ∧ formatOf i.opcode = some f ∧ eventOf i.opcode w = some i ∧ w &&& f.reservedMask = 0 := by
  obtain ⟨f, hf, hi, hm⟩ := decode_event_iff.1 h
  have hop := opcode_of_eventOf hi
  rw [← hop] at hf hi
  exact ⟨f, hop.symm, hf, hi, hm⟩

/-- Settles O3: a word whose reserved bits are 0 is packed from the fields its format keeps, and these are the event's operands. -/
theorem encodeOfDecodedWordGivesTheWordBack : Obligations.EncodeOfDecodedWordGivesTheWordBack := by
  intro w i h
  obtain ⟨f, hop, hf, hi, hm⟩ := fields_of_decode h
  cases i with
  | tick l => cases hf; cases hi; exact packFields_of_t hop hm
  | txStart | txStop | rxInit | ctrlRise | ctrlFall | sysReset => cases hf; exact packFields_of_n hop hm
  | wrStage idx data => cases hf; cases hi; exact packFields_of_id hop hm
  | wrStageLen | rdReg | rdRxbuf | rdStage => cases hf; cases hi; exact packFields_of_i hop hm

/-! ### The value of a word -/

/-- One field put above another adds to it. -/
theorem toNat_append_eq_add {m n : Nat} (x : BitVec m) (y : BitVec n) : (x ++ y).toNat = x.toNat * 2 ^ n + y.toNat := by
  rw [BitVec.toNat_append, ← Nat.shiftLeft_add_eq_or_of_lt y.isLt, Nat.shiftLeft_eq]

/-- The value of a packed word: OP in bits 31:28, IDX in 27:16, the low byte in 7:0 (30_encoding.md R84). -/
theorem toNat_packFields (op : BitVec 4) (idx : Idx) (low : Byte) :
    (packFields op idx low).toNat = op.toNat * 2 ^ 28 + idx.toNat * 2 ^ 16 + low.toNat := by
  simp only [packFields, toNat_append_eq_add, BitVec.toNat_ofNat]
  omega

/-- Settles O4: each encoding is a packed word, its fields at their bits. -/
theorem encodedWordHoldsFieldsAtTheirBits : Obligations.EncodedWordHoldsFieldsAtTheirBits := by
  exact ⟨by decide, by decide, fun idx data => toNat_packFields 0x6 idx data, fun n => toNat_packFields 0x7 n 0,
    fun r => toNat_packFields 0x8 r 0, fun k => toNat_packFields 0x9 k 0, fun k => toNat_packFields 0xA k 0⟩

/-! ### The refusals of the decoder -/

section Refusals
variable {w m : Word} {f : Format}

/-- The decoder on an OP of a format: the event OP selects, or the refusal of a reserved bit. -/
theorem decode_of_formatOf (h : formatOf (opField w) = some f) : ∃ i, eventOf (opField w) w = some i ∧
    decode w = if w &&& f.reservedMask = 0 then .event i else .refused .reservedBits := by
  obtain ⟨i, hi⟩ := exists_eventOf h w
  exact ⟨i, hi, by simp only [decode, h, hi]⟩

theorem decode_of_formatOf_none (h : formatOf (opField w) = none) : decode w = .refused .reservedOp := by
  simp only [decode, h]

theorem decode_reservedOp_iff : decode w = .refused .reservedOp ↔ formatOf (opField w) = none := by
  refine ⟨fun hd => ?_, decode_of_formatOf_none⟩
  cases hf : formatOf (opField w) with
  | none => rfl
  | some f =>
    obtain ⟨i, -, he⟩ := decode_of_formatOf hf
    rw [he] at hd
    split_ifs at hd
    cases hd

theorem decode_reservedBits_iff : decode w = .refused .reservedBits ↔
    ∃ f, formatOf (opField w) = some f ∧ w &&& f.reservedMask ≠ 0 := by
  cases hf : formatOf (opField w) with
  | none => simp [decode_of_formatOf_none hf]
  | some f =>
    obtain ⟨i, -, he⟩ := decode_of_formatOf hf
    simp [he]

theorem toNat_opField (w : Word) : (opField w).toNat = w.toNat / 2 ^ 28 := by
  rw [opField, BitVec.extractLsb'_toNat, Nat.shiftRight_eq_div_pow]
  exact Nat.mod_eq_of_lt (by have := w.isLt; omega)

/-- A masked word is not 0 exactly when it has a 1 in a bit of the mask. -/
theorem and_ne_zero_iff : w &&& m ≠ 0 ↔ ∃ k, m.getLsbD k = true ∧ w.getLsbD k = true := by
  rw [← not_iff_not, not_not, not_exists]
  constructor
  · intro h k hk
    have hb := congrArg (fun v : Word => v.getLsbD k) h
    simp [hk] at hb
  · intro h
    apply BitVec.eq_of_getLsbD_eq
    intro k _
    rw [BitVec.getLsbD_and]
    cases hm : m.getLsbD k with
    | false => simp
    | true =>
      have hw : w.getLsbD k = false := by simpa [hm] using h k
      simp [hw]

/-- The reserved bits of a format are a range of places (30_encoding.md R88). -/
theorem Format.getLsbD_reservedMask (f : Format) (k : Nat) : f.reservedMask.getLsbD k = true ↔
    match f with
    | .t => 1 ≤ k ∧ k ≤ 27
    | .n => k ≤ 27
    | .i => k ≤ 15
    | .id => 8 ≤ k ∧ k ≤ 15 := by
  rcases lt_or_ge k 32 with hk | hk
  · interval_cases k <;> cases f <;> decide
  · rw [BitVec.getLsbD_of_ge _ _ hk]
    cases f <;> simp <;> omega

end Refusals

/-- Settles O5: OP is the top four bits of the word, and it selects no format from 0xC on. -/
theorem reservedOpIsRefusedByName : Obligations.ReservedOpIsRefusedByName := by
  intro w
  rw [decode_reservedOp_iff, formatOf_eq_none_iff, toNat_opField]
  omega

/-- Settles O6: OP selects one of the four formats, and the format's reserved bits are a range of places. -/
theorem reservedBitsAreRefusedByName : Obligations.ReservedBitsAreRefusedByName := by
  intro w
  rw [decode_reservedBits_iff]
  simp only [and_ne_zero_iff, Format.getLsbD_reservedMask, ← formatOf_eq_t_iff, ← formatOf_eq_n_iff,
    ← formatOf_eq_i_iff, ← formatOf_eq_id_iff]
  constructor
  · rintro ⟨f, hf, k, hm, hk⟩
    cases f with
    | t => exact .inl ⟨hf, k, hm.1, hm.2, hk⟩
    | n => exact .inr (.inl ⟨hf, k, hm, hk⟩)
    | i => exact .inr (.inr (.inl ⟨hf, k, hm, hk⟩))
    | id => exact .inr (.inr (.inr ⟨hf, k, hm.1, hm.2, hk⟩))
  · rintro (⟨hf, k, h1, h2, hk⟩ | ⟨hf, k, hm, hk⟩ | ⟨hf, k, hm, hk⟩ | ⟨hf, k, h1, h2, hk⟩)
    · exact ⟨.t, hf, k, ⟨h1, h2⟩, hk⟩
    · exact ⟨.n, hf, k, hm, hk⟩
    · exact ⟨.i, hf, k, hm, hk⟩
    · exact ⟨.id, hf, k, ⟨h1, h2⟩, hk⟩

/-! ### The opcode table -/

/-- The bits of OP (30_encoding.md R84). -/
def opMask : Word := 0xF0000000

theorem and_opMask (w : Word) : w &&& opMask = opField w ++ 0#28 := by
  apply BitVec.eq_of_getLsbD_eq
  intro k hk
  simp only [opMask, opField, BitVec.getLsbD_and, BitVec.getLsbD_append, BitVec.getLsbD_extractLsb']
  interval_cases k <;> simp

/-- No reserved bit is a bit of OP. -/
theorem append_and_reservedMask (op : BitVec 4) (f : Format) : (op ++ 0#28) &&& f.reservedMask = 0 := by
  cases f <;> decide +revert

/-- A word has OP in its bits 31:28 and 0 in the reserved bits of a format exactly when it is OP alone under both masks. -/
theorem and_opMask_or_reservedMask_iff (w : Word) (op : BitVec 4) (f : Format) :
    w &&& (opMask ||| f.reservedMask) = op ++ 0#28 ↔ opField w = op ∧ w &&& f.reservedMask = 0 := by
  constructor
  · intro h
    have hop : opField (op ++ 0#28) = op := BitVec.extractLsb'_append_eq_left
    have hmask : opField (opMask ||| f.reservedMask) = BitVec.allOnes 4 := by cases f <;> decide
    constructor
    · rw [← hop, ← h, opField, opField, BitVec.extractLsb'_and, ← opField, ← opField, hmask, BitVec.and_allOnes]
    · have habs : (opMask ||| f.reservedMask) &&& f.reservedMask = f.reservedMask := by cases f <;> decide
      rw [← habs, ← BitVec.and_assoc, h, append_and_reservedMask]
  · rintro ⟨rfl, hm⟩
    rw [BitVec.and_or_distrib_left, hm, and_opMask]
    exact BitVec.or_zero

/-- Each row of the table is its OP and the reserved bits of the format that OP selects. -/
theorem opcodeTable_row_eq : ∀ r ∈ opcodeTable, r.value = opField r.value ++ 0#28 ∧
    (formatOf (opField r.value)).map (fun f => opMask ||| f.reservedMask) = some r.mask := by decide

/-- A row matches the words of its OP that have 0 in the reserved bits of the format (30_encoding.md R85, R88, R90). -/
theorem OpcodeRow.matches_iff {r : OpcodeRow} (hr : r ∈ opcodeTable) : ∃ f, formatOf (opField r.value) = some f ∧
    ∀ w, r.Matches w ↔ opField w = opField r.value ∧ w &&& f.reservedMask = 0 := by
  obtain ⟨hv, hm⟩ := opcodeTable_row_eq r hr
  obtain ⟨f, hf, hmask⟩ := Option.map_eq_some_iff.1 hm
  refine ⟨f, hf, fun w => ?_⟩
  rw [OpcodeRow.Matches, ← hmask, ← and_opMask_or_reservedMask_iff, ← hv]

theorem eq_of_opField_value_eq : ∀ r ∈ opcodeTable, ∀ r' ∈ opcodeTable, opField r.value = opField r'.value → r = r' := by
  decide

/-- Every event has its row, of its opcode and its name. -/
theorem exists_row (i : Instr) : ∃ r ∈ opcodeTable, opField r.value = i.opcode ∧ r.mnemonic = i.mnemonic := by
  cases i <;> simp [opcodeTable, Instr.opcode, Instr.mnemonic, opField]

/-- A word that decodes to an event matches the event's row. -/
theorem exists_matching_row {w : Word} {i : Instr} (h : decode w = .event i) :
    ∃ r ∈ opcodeTable, r.Matches w ∧ r.mnemonic = i.mnemonic := by
  obtain ⟨f, hop, hf, -, hm⟩ := fields_of_decode h
  obtain ⟨r, hr, hv, hname⟩ := exists_row i
  obtain ⟨f', hf', hmatch⟩ := OpcodeRow.matches_iff hr
  obtain rfl : f = f' := Option.some.inj (by rw [← hf, ← hf', hv])
  exact ⟨r, hr, (hmatch w).2 ⟨hop.trans hv.symm, hm⟩, hname⟩

/-- A word that a row matches decodes to an event. -/
theorem decode_of_matches {r : OpcodeRow} {w : Word} (hr : r ∈ opcodeTable) (h : r.Matches w) :
    ∃ i, decode w = .event i := by
  obtain ⟨f, hf, hmatch⟩ := OpcodeRow.matches_iff hr
  obtain ⟨hop, hm⟩ := (hmatch w).1 h
  obtain ⟨i, -, hd⟩ := decode_of_formatOf (hop ▸ hf)
  exact ⟨i, hd.trans (if_pos hm)⟩

/-- Settles O7: a matching row is the one of the word's OP, and the rows match the words that the decoder gives an event. -/
theorem opcodeTableRowsAreDisjointAndDecoded : Obligations.OpcodeTableRowsAreDisjointAndDecoded := by
  refine ⟨fun w r hr r' hr' h h' => ?_, fun w => ⟨?_, ?_⟩, fun w i => exists_matching_row⟩
  · obtain ⟨f, -, hm⟩ := OpcodeRow.matches_iff hr
    obtain ⟨f', -, hm'⟩ := OpcodeRow.matches_iff hr'
    exact eq_of_opField_value_eq r hr r' hr' (((hm w).1 h).1.symm.trans ((hm' w).1 h').1)
  · rintro ⟨i, hi⟩
    obtain ⟨r, hr, hm, -⟩ := exists_matching_row hi
    exact ⟨r, hr, hm⟩
  · rintro ⟨r, hr, hm⟩
    exact decode_of_matches hr hm

end Sys2Proof

namespace Sys2Proof.Machine

/-! ### The checks by value -/

/-- In loopback a TICK samples the line it drives itself, whatever its L (42_host_and_control.md R181). -/
theorem State.tick_of_loopback {s : State} (h : s.params.loopback = true) (l l' : Level) : s.tick l = s.tick l' := by
  simp only [State.tick, sample, h, if_true]

/-- Settles O10: each meaning refuses from its bound on, an event that passes its check has a next state, and in loopback the level of a
TICK is not read. -/
theorem operandChecksRefuseByName : Obligations.OperandChecksRefuseByName := by
  intro s
  refine ⟨fun idx data h => exec_wrStage_of_le s h data, fun n h => exec_wrStageLen_of_lt s h,
    fun r h => exec_rdReg_of_le s h, fun idx h => exec_rdRxbuf_of_le s h, fun idx h => exec_rdStage_of_le s h,
    fun i h => exec_next_of_wellFormed h, fun h l l' => ?_⟩
  rw [exec_tick, exec_tick, State.tick_of_loopback h l l']

/-- Settles O1: each word of the table is decoded, and each value it refuses is at or above the bound for
TX_MAX = 2 and RX_CAP = 4. -/
theorem specEventWordsDecodeAsListed : Obligations.SpecEventWordsDecodeAsListed := by
  refine ⟨by decide, by decide, by decide, by decide, fun s htx hrx => ⟨?_, ?_, ?_, ?_, ?_, ?_⟩⟩
  · exact exec_wrStage_of_le s (by rw [htx]) 0x00
  · exact ⟨_, exec_wrStageLen_of_le s (by rw [htx])⟩
  · exact exec_wrStageLen_of_lt s (by rw [htx]; decide)
  · exact exec_rdReg_of_le s le_rfl
  · exact exec_rdRxbuf_of_le s (by rw [hrx])
  · exact exec_rdStage_of_le s (by rw [htx])

end Sys2Proof.Machine
end

section
/-! Proofs of the statements on the line format (30_encoding.md R80, R81): the bytes it spells, and the session that writes it. -/

namespace Sys2Proof.Machine

/-! ### The line format as bytes -/

/-- Bit `k` of a byte's eight levels; past the eighth there is none. -/
theorem getD_byteLevels (b : Byte) (k : Nat) : (byteLevels b).getD k false = b.getLsbD k := by
  rcases lt_or_ge k 8 with hk | hk
  · interval_cases k <;> rfl
  · rw [List.getD_eq_default _ _ (by exact hk), BitVec.getLsbD_of_ge b k hk]

theorem length_flatMap_byteLevels (bs : List Byte) : (bs.flatMap byteLevels).length = 8 * bs.length := by
  simp [List.length_flatMap, byteLevels, Nat.mul_comm]

/-- Level `k` of LSB-first bytes is bit `k mod 8` of byte `k div 8`, and 0 after the last byte. -/
theorem getD_flatMap_byteLevels (bs : List Byte) (k : Nat) :
    (bs.flatMap byteLevels).getD k false = (bs.getD (k / 8) 0).getLsbD (k % 8) := by
  induction bs generalizing k with
  | nil => simp
  | cons b bs ih =>
    rw [List.flatMap_cons]
    rcases lt_or_ge k 8 with hk | hk
    · rw [List.getD_append _ _ _ _ (by exact hk), getD_byteLevels, Nat.div_eq_of_lt hk, Nat.mod_eq_of_lt hk,
        List.getD_cons_zero]
    · have hdiv : k / 8 = (k - 8) / 8 + 1 := by omega
      have hmod : k % 8 = (k - 8) % 8 := by omega
      rw [List.getD_append_right _ _ _ _ (by exact hk), show (byteLevels b).length = 8 from rfl, ih, hdiv, hmod,
        List.getD_cons_succ]

/-- The 0 of the Done entry adds nothing to a wave read as 0 after its end. -/
theorem getD_append_false (ls : List Level) (k : Nat) : (ls ++ [false]).getD k false = ls.getD k false := by
  rcases lt_or_ge k ls.length with hk | hk
  · exact List.getD_append _ _ _ _ hk
  · rw [List.getD_append_right _ _ _ _ hk, List.getD_eq_default _ _ hk]
    cases k - ls.length <;> rfl

section LineLevel
variable {bytes : List Byte} {k : Nat}

/-! The four rows of the table of 30_encoding.md R80: Preamble, Sync, Data, and from the Done entry on. -/

theorem lineLevel_preamble (h : k < 8) : lineLevel bytes k = (k % 2 == 0) := if_pos h

theorem lineLevel_sync (h : 8 ≤ k) (h' : k < 16) : lineLevel bytes k = decide (k - 8 < 4) := by
  rw [lineLevel, if_neg (by omega), if_pos h']

theorem lineLevel_data (h : 16 ≤ k) (h' : k < 16 + 8 * bytes.length) :
    lineLevel bytes k = (bytes.getD ((k - 16) / 8) 0).getLsbD ((k - 16) % 8) := by
  rw [lineLevel, if_neg (by omega), if_neg (by omega), if_pos h']

theorem lineLevel_done (h : 16 + 8 * bytes.length ≤ k) : lineLevel bytes k = false := by
  rw [lineLevel, if_neg (by omega), if_neg (by omega), if_neg (by omega)]

/-- The table of 30_encoding.md R80 is the bytes of R81, bit by bit. -/
theorem lineLevel_eq_getLsbD (bytes : List Byte) (k : Nat) :
    lineLevel bytes k = ((0x55 :: frameStart :: bytes).getD (k / 8) 0).getLsbD (k % 8) := by
  rcases lt_or_ge k 16 with hk | hk
  · interval_cases k <;> simp [lineLevel, frameStart]
  · have hdiv : k / 8 = (k - 16) / 8 + 1 + 1 := by omega
    have hmod : k % 8 = (k - 16) % 8 := by omega
    rw [hdiv, hmod, List.getD_cons_succ, List.getD_cons_succ]
    rcases lt_or_ge k (16 + 8 * bytes.length) with hend | hend
    · exact lineLevel_data hk hend
    · rw [lineLevel_done hend, List.getD_eq_default _ _ (by omega), BitVec.ofNat_eq_ofNat, BitVec.getLsbD_zero]

end LineLevel

/-- Settles O22: level `k` of the wave and of the table is bit `k mod 8` of byte `k div 8`. -/
theorem lineFormatReadAsBytesIsPreambleSyncPayload : Obligations.LineFormatReadAsBytesIsPreambleSyncPayload := by
  intro bytes
  constructor
  · rw [wave, List.length_append, length_flatMap_byteLevels, List.length_cons, List.length_cons, List.length_singleton]
    omega
  · intro k
    rw [wave, getD_append_false, getD_flatMap_byteLevels, lineLevel_eq_getLsbD]

/-! ### The session that writes the line format -/

/-- The phase and the position `k` TICKs after the start of a session of `n` bytes; in Done the line is low
(40_transmitter.md R119). -/
def Tx.PlaceAt (n k : Nat) (t : Tx) : Prop :=
  match t.txPhase with
  | .idle => False
  | .preamble => k < 8 ∧ t.bitPosition.toNat = k
  | .sync => (8 ≤ k ∧ k < 16) ∧ t.bitPosition.toNat = k - 8
  | .data => (16 ≤ k ∧ k ≤ 16 + 8 * n) ∧ t.bitPosition.toNat = k - 16
  | .done => 17 + 8 * n ≤ k ∧ t.txOut = false

/-- A transmitter `k` TICKs into a session of the bytes `bs`. -/
structure Tx.SessionAt (bs : List Byte) (k : Nat) (t : Tx) : Prop where
  bytes : t.payload.bytes t.payloadLen.toNat = bs
  place : t.PlaceAt bs.length k

section Place
variable {n k : Nat} {t : Tx}

theorem Tx.placeAt_preamble (hp : t.txPhase = .preamble) : t.PlaceAt n k ↔ k < 8 ∧ t.bitPosition.toNat = k := by
  simp only [Tx.PlaceAt, hp]

theorem Tx.placeAt_sync (hp : t.txPhase = .sync) :
    t.PlaceAt n k ↔ (8 ≤ k ∧ k < 16) ∧ t.bitPosition.toNat = k - 8 := by
  simp only [Tx.PlaceAt, hp]

theorem Tx.placeAt_data (hp : t.txPhase = .data) :
    t.PlaceAt n k ↔ (16 ≤ k ∧ k ≤ 16 + 8 * n) ∧ t.bitPosition.toNat = k - 16 := by
  simp only [Tx.PlaceAt, hp]

theorem Tx.placeAt_done (hp : t.txPhase = .done) : t.PlaceAt n k ↔ 17 + 8 * n ≤ k ∧ t.txOut = false := by
  simp only [Tx.PlaceAt, hp]

/-- A session is never in Idle. -/
theorem Tx.not_placeAt_idle (hp : t.txPhase = .idle) : ¬ t.PlaceAt n k := by
  simp only [Tx.PlaceAt, hp, not_false_eq_true]

/-- A session is Done exactly from TICK `17 + 8 n` on. -/
theorem Tx.PlaceAt.isDone_iff (h : t.PlaceAt n k) : t.isDone = true ↔ 17 + 8 * n ≤ k := by
  rw [Tx.isDone, beq_iff_eq]
  cases hp : t.txPhase with
  | idle => exact absurd h (Tx.not_placeAt_idle hp)
  | preamble => obtain ⟨hk, -⟩ := (Tx.placeAt_preamble hp).1 h; simp; omega
  | sync => obtain ⟨hk, -⟩ := (Tx.placeAt_sync hp).1 h; simp; omega
  | data => obtain ⟨hk, -⟩ := (Tx.placeAt_data hp).1 h; simp; omega
  | done => simpa using ((Tx.placeAt_done hp).1 h).1

/-- A position is the last of a phase of eight exactly when it is 7. -/
theorem add_one_eq_eight_iff (p : BitVec 16) : p + 1 = 8 ↔ p.toNat = 7 := by
  constructor <;> intro h <;> bv_omega

/-- One more TICK of a session: the next place in the phase, or the first of the next phase. -/
theorem Tx.PlaceAt.tick (h : t.PlaceAt t.payloadLen.toNat k) : t.tick.PlaceAt t.payloadLen.toNat (k + 1) := by
  have hmax := t.payloadLen.isLt
  obtain ⟨hp | hp, he⟩ | ⟨hp, h8, he⟩ | ⟨hp, h8, he⟩ | ⟨hp, h8, he⟩ | ⟨hp, h8, he⟩ | ⟨hp, hlt, he⟩ | ⟨hp, hle, he⟩ :=
    t.tick_cases <;> rw [he]
  · exact absurd h (Tx.not_placeAt_idle hp)
  · rw [Tx.placeAt_done hp] at h ⊢
    exact ⟨by omega, h.2⟩
  · rw [Tx.placeAt_preamble hp] at h
    rw [ne_eq, add_one_eq_eight_iff] at h8
    refine (Tx.placeAt_preamble (by exact hp)).2 ⟨by omega, ?_⟩
    exact (toNat_succ_of_lt (m := 8) (by omega) (by decide)).trans (by omega)
  · rw [Tx.placeAt_preamble hp] at h
    rw [add_one_eq_eight_iff] at h8
    refine (Tx.placeAt_sync rfl).2 ⟨by omega, ?_⟩
    show 0 = k + 1 - 8
    omega
  · rw [Tx.placeAt_sync hp] at h
    rw [ne_eq, add_one_eq_eight_iff] at h8
    refine (Tx.placeAt_sync (by exact hp)).2 ⟨by omega, ?_⟩
    exact (toNat_succ_of_lt (m := 8) (by omega) (by decide)).trans (by omega)
  · rw [Tx.placeAt_sync hp] at h
    rw [add_one_eq_eight_iff] at h8
    refine (Tx.placeAt_data rfl).2 ⟨by omega, ?_⟩
    show 0 = k + 1 - 16
    omega
  · rw [Tx.placeAt_data hp] at h
    refine (Tx.placeAt_data (by exact hp)).2 ⟨by omega, ?_⟩
    exact (toNat_succ_of_lt (m := 8 * t.payloadLen.toNat) hlt (by omega)).trans (by omega)
  · rw [Tx.placeAt_data hp] at h
    exact (Tx.placeAt_done rfl).2 ⟨by omega, rfl⟩

end Place

section Session
variable {bs : List Byte} {k : Nat} {t : Tx}

/-- TX_START begins a session of the staged bytes (40_transmitter.md R117). -/
theorem Tx.sessionAt_start (t : Tx) : t.start.SessionAt (t.stage.bytes t.stageLen.toNat) 0 where
  bytes := rfl
  place := (Tx.placeAt_preamble rfl).2 ⟨by decide, rfl⟩

theorem Tx.SessionAt.payloadLen_eq (h : t.SessionAt bs k) : t.payloadLen.toNat = bs.length := by
  rw [← h.bytes, Mem.length_bytes]

/-- The payload bits of a session are those of its bytes. -/
theorem Tx.SessionAt.payloadBit (h : t.SessionAt bs k) {p : Nat} (hp : p < 8 * bs.length) :
    t.payloadBit p = (bs.getD (p / 8) 0).getLsbD (p % 8) := by
  have hlt : p / 8 < bs.length := by omega
  have hread : t.payload.read (p / 8) = bs[p / 8] := by
    simp only [← h.bytes, Mem.getElem_bytes]
  rw [Tx.payloadBit, hread, List.getD_eq_getElem _ _ hlt]

/-- A TICK keeps the session, one TICK further. -/
theorem Tx.SessionAt.tick (h : t.SessionAt bs k) : t.tick.SessionAt bs (k + 1) where
  bytes := by
    obtain ⟨hp, hl, -⟩ := t.tick_frame
    rw [hp, hl, h.bytes]
  place := by
    have hplace := h.place
    rw [← h.payloadLen_eq] at hplace ⊢
    exact hplace.tick

/-- The TICK after `k` TICKs of a session puts level `k` of the line format on the line (30_encoding.md R80). -/
theorem Tx.SessionAt.txOut_tick (h : t.SessionAt bs k) : t.tick.txOut = lineLevel bs k := by
  have hlen := h.payloadLen_eq
  have hplace := h.place
  obtain ⟨hp | hp, he⟩ | ⟨hp, -, he⟩ | ⟨hp, -, he⟩ | ⟨hp, -, he⟩ | ⟨hp, -, he⟩ | ⟨hp, hlt, he⟩ | ⟨hp, hle, he⟩ :=
    t.tick_cases <;> rw [he]
  · exact absurd hplace (Tx.not_placeAt_idle hp)
  · obtain ⟨hk, hlow⟩ := (Tx.placeAt_done hp).1 hplace
    rw [hlow, lineLevel_done (by omega)]
  iterate 2
    · obtain ⟨hk, hpos⟩ := (Tx.placeAt_preamble hp).1 hplace
      rw [lineLevel_preamble hk, ← hpos]
  iterate 2
    · obtain ⟨⟨hk, hk'⟩, hpos⟩ := (Tx.placeAt_sync hp).1 hplace
      rw [lineLevel_sync hk hk', ← hpos]
  · obtain ⟨⟨hk, -⟩, hpos⟩ := (Tx.placeAt_data hp).1 hplace
    rw [hlen] at hlt
    rw [lineLevel_data hk (by omega), ← hpos]
    exact h.payloadBit hlt
  · obtain ⟨⟨hk, -⟩, hpos⟩ := (Tx.placeAt_data hp).1 hplace
    rw [lineLevel_done (by omega)]

/-- A session after any number of TICKs. -/
theorem Tx.sessionAt_iterate_tick (t : Tx) (k : Nat) :
    (Tx.tick^[k] t.start).SessionAt (t.stage.bytes t.stageLen.toNat) k := by
  induction k with
  | zero => exact t.sessionAt_start
  | succ k ih =>
    rw [Function.iterate_succ_apply']
    exact ih.tick

end Session

/-- Settles O21: the TICKs after TX_START walk the session's places, one level of the line format at each. -/
theorem sessionPutsTheLineFormatOnTheLine : Obligations.SessionPutsTheLineFormatOnTheLine := by
  intro s l ls
  have hsession := s.tx.sessionAt_iterate_tick ls.length
  refine ⟨_, (execAll_cons_of_next (exec_txStart s) _).trans (execAll_ticks (l :: ls) _), ?_⟩
  rw [foldl_tick_tx, State.withTx_tx, List.length_cons, Function.iterate_succ_apply']
  refine ⟨hsession.txOut_tick, ?_⟩
  rw [hsession.tick.place.isDone_iff, Mem.length_bytes]

end Sys2Proof.Machine
end

section
/-! Proof of the statement on the pseudo-event SEND (30_encoding.md R92): what its expansion stages and starts. -/

namespace Sys2Proof.Machine

/-- The bytes `bs` written to a buffer from index `k` on. -/
def Mem.writeFrom (m : Mem) (k : Nat) : List Byte → Mem
  | [] => m
  | b :: bs => (m.write k b).writeFrom (k + 1) bs

/-- Bytes written from an index on leave every byte below it alone. -/
theorem Mem.read_writeFrom_of_lt (bs : List Byte) {m : Mem} {i k : Nat} (hi : i < k) :
    (m.writeFrom k bs).read i = m.read i := by
  induction bs generalizing m k with
  | nil => rfl
  | cons b bs ih =>
    rw [Mem.writeFrom, ih (Nat.lt_succ_of_lt hi)]
    exact Mem.read_write_other m hi.ne b

/-- Bytes written from index `k` on read back from index `k` on. -/
theorem Mem.read_writeFrom (bs : List Byte) {m : Mem} (h : m.wf = true) (k : Nat) {j : Nat} (hj : j < bs.length) :
    (m.writeFrom k bs).read (k + j) = bs[j] := by
  induction bs generalizing m k j with
  | nil => cases hj
  | cons b bs ih =>
    rw [Mem.writeFrom]
    cases j with
    | zero =>
      show ((m.write k b).writeFrom (k + 1) bs).read k = b
      rw [Mem.read_writeFrom_of_lt bs (Nat.lt_add_one k), Mem.read_write_same h]
    | succ j =>
      rw [List.getElem_cons_succ, ← ih (Mem.wf_write h k b) (k + 1) (Nat.lt_of_succ_lt_succ hj)]
      congr 1
      omega

/-- A buffer written from index 0 on holds those bytes. -/
theorem Mem.bytes_writeFrom {m : Mem} (h : m.wf = true) (bs : List Byte) : (m.writeFrom 0 bs).bytes bs.length = bs := by
  refine List.ext_getElem (Mem.length_bytes _ _) fun j hj hj' => ?_
  rw [Mem.getElem_bytes, ← Mem.read_writeFrom bs h 0 hj', Nat.zero_add]

section Send
variable {s : State} {bs : List Byte}

/-- An index within the staging buffer fits its 12-bit operand. -/
theorem toNat_ofNat_of_le_txMax {p : Params} {k : Nat} (h : k ≤ p.txMax.toNat) : (BitVec.ofNat 12 k).toNat = k :=
  (BitVec.toNat_ofNat k 12).trans (Nat.mod_eq_of_lt (lt_of_le_of_lt h p.txMax.isLt))

/-- The WR_STAGE events of a list of bytes that fits write them to STAGE and nothing else. -/
theorem execAll_stageFrom {k : Nat} (h : k + bs.length ≤ s.params.txMax.toNat) :
    execAll (stageFrom k bs) s = .next (s.withTx { s.tx with stage := s.tx.stage.writeFrom k bs }) := by
  induction bs generalizing s k with
  | nil => rfl
  | cons b bs ih =>
    rw [List.length_cons] at h
    have hk : (BitVec.ofNat 12 k).toNat = k := toNat_ofNat_of_le_txMax (p := s.params) (by omega)
    have hw := exec_wrStage_of_lt s (idx := BitVec.ofNat 12 k) (by omega) b
    rw [hk] at hw
    rw [stageFrom, execAll_cons_of_next hw, ih (by rw [State.withTx_params]; omega)]
    rfl

/-- LOAD stages the bytes and their number (30_encoding.md R92). -/
theorem execAll_expandLoad (h : bs.length ≤ s.params.txMax.toNat) : execAll (expandLoad bs) s =
    .next (s.withTx { s.tx with stage := s.tx.stage.writeFrom 0 bs, stageLen := BitVec.ofNat 12 bs.length }) := by
  have hlen : (BitVec.ofNat 12 bs.length).toNat ≤ s.params.txMax.toNat := by rwa [toNat_ofNat_of_le_txMax h]
  have hstage := execAll_stageFrom (s := s) (bs := bs) (k := 0) (by rwa [Nat.zero_add])
  rw [expandLoad, execAll_append _ _ hstage]
  exact execAll_cons_of_next (exec_wrStageLen_of_le _ (by exact hlen)) []

end Send

/-- Settles O59: LOAD stages the bytes and their number, and TX_START copies both into the session. -/
theorem sendPseudoEventStartsASessionWithItsBytes : Obligations.SendPseudoEventStartsASessionWithItsBytes := by
  intro s bytes hwf hle
  refine ⟨_, (execAll_append _ _ (execAll_expandLoad hle)).trans (execAll_cons_of_next (exec_txStart _) _), ?_, rfl, rfl, rfl, rfl⟩
  have hlen : (BitVec.ofNat 12 bytes.length).toNat = bytes.length := toNat_ofNat_of_le_txMax hle
  show (s.tx.stage.writeFrom 0 bytes).bytes (BitVec.ofNat 12 bytes.length).toNat = bytes
  rw [hlen, Mem.bytes_writeFrom hwf]

end Sys2Proof.Machine
end

section
/-! Proofs of the statements on the transmitter (40_transmitter.md R110 to R118, R120): each event of its own, and what it reads. -/

namespace Sys2Proof.Machine

/-! ### What the transmitter reads -/

section Reads
variable {s s' t t' : State}

theorem ctrlSeq_tx_congr (os : List CtrlOp) (h : s.tx = s'.tx) : (ctrlSeq os s).tx = (ctrlSeq os s').tx := by
  induction os generalizing s s' with
  | nil => exact h
  | cons o os ih =>
    refine ih ?_
    cases o with
    | txStart => exact congrArg Tx.start h
    | txStop => exact congrArg Tx.stop h
    | rxInit => exact h

/-- The transmitter after a TICK is read from the transmitter alone, whatever the level. -/
theorem exec_tick_tx_congr {l l' : Level} (htx : s.tx = s'.tx) (h : exec (.tick l) s = .next t)
    (h' : exec (.tick l') s' = .next t') : t.tx = t'.tx := by
  cases h
  cases h'
  exact congrArg Tx.tick htx

/-- The transmitter after an event is read from the transmitter and the parameters alone. -/
theorem exec_tx_congr {i : Instr} (htx : s.tx = s'.tx) (hp : s.params = s'.params) (h : exec i s = .next t)
    (h' : exec i s' = .next t') : t.tx = t'.tx := by
  cases i with
  | tick l => exact exec_tick_tx_congr htx h h'
  | txStart => cases h; cases h'; exact congrArg Tx.start htx
  | txStop => cases h; cases h'; exact congrArg Tx.stop htx
  | rxInit => cases h; cases h'; exact htx
  | ctrlRise | ctrlFall => cases h; cases h'; rw [hp]; exact ctrlSeq_tx_congr _ htx
  | wrStage idx data =>
    rw [(exec_wrStage_next h).2, (exec_wrStage_next h').2, State.withTx_tx, State.withTx_tx, htx]
  | wrStageLen n =>
    rw [(exec_wrStageLen_next h).2, (exec_wrStageLen_next h').2, State.withTx_tx, State.withTx_tx, htx]
  | rdReg reg =>
    obtain ⟨v, -, rfl⟩ := exec_rdReg_next h
    obtain ⟨v', -, rfl⟩ := exec_rdReg_next h'
    exact htx
  | rdRxbuf idx => rw [(exec_rdRxbuf_next h).2, (exec_rdRxbuf_next h').2]; exact htx
  | rdStage idx => rw [(exec_rdStage_next h).2, (exec_rdStage_next h').2]; exact htx
  | sysReset => cases h; cases h'; rfl

end Reads

/-- Settles O23: what each event writes to the transmitter is computed from the transmitter and, on a control edge, its map. -/
theorem transmitterReadsNeitherLineReceiverNorCounter : Obligations.TransmitterReadsNeitherLineReceiverNorCounter := by
  intro s s' t t' htx hp
  exact ⟨fun _ => exec_tx_congr htx hp, fun _ _ => exec_tick_tx_congr htx⟩

/-! ### TX_TICK -/

/-- A TICK answers a state whose transmitter is TX_TICK of the one before. -/
theorem exists_exec_tick (s : State) (l : Level) {u : Tx} (h : s.tx.tick = u) :
    ∃ t, exec (.tick l) s = .next t ∧ t.tx = u := ⟨_, exec_tick s l, h⟩

/-- One TICK of a phase of eight: a level on the line, and the next position, or the next phase from position 7. -/
theorem Tx.advance_of_eight_eq (t : Tx) (v : Level) (next : TxPhase) :
    (if t.bitPosition + 1 = 8 then { t.pinWrite v with txPhase := next, bitPosition := 0 }
      else { t.pinWrite v with bitPosition := t.bitPosition + 1 }) =
    { t with
      txOut := v
      txPhase := if t.bitPosition.toNat = 7 then next else t.txPhase
      bitPosition := if t.bitPosition.toNat = 7 then 0 else t.bitPosition + 1 } := by
  simp only [add_one_eq_eight_iff]
  split_ifs <;> rfl

/-- Settles O14: Preamble is a phase of eight, high at the even positions. -/
theorem preambleTickWritesAlternatingLevels : Obligations.PreambleTickWritesAlternatingLevels := by
  intro s l hp
  refine exists_exec_tick s l ?_
  have hlevel : (s.tx.bitPosition.toNat % 2 == 0) = if s.tx.bitPosition.toNat % 2 = 0 then true else false := by
    simp [beq_eq_decide]
  rw [Tx.tick_preamble hp, ← hlevel, ← hp]
  exact Tx.advance_of_eight_eq s.tx _ .sync

/-- Settles O15: Sync is a phase of eight, high at the first four positions. -/
theorem syncTickWritesFourOnesThenFourZeros : Obligations.SyncTickWritesFourOnesThenFourZeros := by
  intro s l hp
  refine exists_exec_tick s l ?_
  rw [Tx.tick_sync hp, Bool.if_true_left, Bool.or_false, ← hp]
  exact Tx.advance_of_eight_eq s.tx _ .data

/-- Settles O16: the payload bit at the position is bit 0 of the byte shifted down to it. -/
theorem dataTickWritesTheNextPayloadBit : Obligations.DataTickWritesTheNextPayloadBit := by
  intro s l hp hlt
  refine exists_exec_tick s l ?_
  have hnext : BitVec.ofNat 16 (s.tx.bitPosition.toNat + 1) = s.tx.bitPosition + 1 := by
    rw [BitVec.ofNat_add, BitVec.ofNat_toNat, BitVec.setWidth_eq]
    rfl
  rw [Tx.tick_data hp, hnext, BitVec.getLsbD_ushiftRight, Nat.add_zero]
  exact if_pos hlt

/-- Settles O17: at position `8 * payloadLen` no payload bit remains. -/
theorem dataEndTickEntersDoneWithLineLow : Obligations.DataEndTickEntersDoneWithLineLow := by
  intro s l hp heq
  have hend : s.tx.tick = s.tx.tickDataEnd := (Tx.tick_data hp).trans (if_neg heq.not_lt)
  obtain ⟨t, ht, htx⟩ := exists_exec_tick s l hend
  refine ⟨t, ht, htx, ?_⟩
  rw [htx]
  rfl

/-- Settles O18: TX_TICK is the identity in both phases. -/
theorem idleAndDoneTicksWriteNothing : Obligations.IdleAndDoneTicksWriteNothing := by
  intro s l hp
  refine exists_exec_tick s l ?_
  obtain hidle | hdone := hp
  · exact Tx.tick_idle hidle
  · exact Tx.tick_done hdone

/-! ### TX_START and TX_STOP -/

/-- Settles O19: the session's bytes are the staged ones, at every index. -/
theorem txStartCopiesStageAndRestartsAtPreamble : Obligations.TxStartCopiesStageAndRestartsAtPreamble := by
  intro s
  exact ⟨_, exec_txStart s, fun _ => rfl, rfl, rfl, rfl, rfl, rfl⟩

/-- Settles O20: TX_STOP is this update of the transmitter, whatever its phase. -/
theorem txStopIdlesAndDrivesTheLineLow : Obligations.TxStopIdlesAndDrivesTheLineLow := exec_txStop

end Sys2Proof.Machine
end

section
/-! Proofs of the statements on one TICK of the receiver (41_receiver.md R142 to R152): each state's meaning on naturals. -/

namespace Sys2Proof.Machine

/-! ### What one TICK does -/

/-- The receiver after a TICK, with the counter and the sampled level as the statements write them. -/
theorem State.rx_tick (s : State) (l : Level) :
    (s.tick l).rx = Rx.step s.params.rxCap s.rx (BitVec.ofNat 32 s.nextNow) (s.lineIn l) := by
  rw [State.tick_rx, s.ofNat_nextNow, s.lineIn_eq_sample]

theorem State.toNat_ofNat_nextNow (s : State) : (BitVec.ofNat 32 s.nextNow).toNat = s.nextNow := by
  rw [s.ofNat_nextNow, s.nextNow_eq]

/-- Settles O26: the two cases of RX_STEP in Waiting. -/
theorem waitingTickTakesTheFirstTransition : Obligations.WaitingTickTakesTheFirstTransition := by
  intro s l hw
  refine ⟨_, exec_tick s l, ?_⟩
  rw [s.rx_tick, Rx.step_waiting _ _ _ _ hw]
  obtain ⟨hs, he⟩ | ⟨hs, he⟩ := s.rx.stepWaiting_cases (BitVec.ofNat 32 s.nextNow) (s.lineIn l)
  · exact ⟨fun _ => he, fun hne => absurd hs hne⟩
  · exact ⟨fun heq => absurd heq hs, fun _ => he⟩

/-- Settles O27: the fold and the estimate of RX_STEP at a transition, read on naturals. -/
theorem clockSyncTransitionFoldsTheInterval : Obligations.ClockSyncTransitionFoldsTheInterval := by
  intro s l hc hne
  refine ⟨_, exec_tick s l, ?_⟩
  have hstep : s.rx.stepClockSync (BitVec.ofNat 32 s.nextNow) (s.lineIn l) =
      s.rx.stepTransition (BitVec.ofNat 32 s.nextNow) (s.lineIn l) := if_pos (bne_iff_ne.2 hne)
  rw [s.rx_tick, Rx.step_clockSync _ _ _ _ hc, hstep]
  have htotal := toNat_addW s.rx.pulseTimeTotal (subW (BitVec.ofNat 32 s.nextNow) s.rx.systimePrevPulse)
  rw [toNat_subW] at htotal
  have hcount := toNat_addW s.rx.numPulses 1
  obtain ⟨hlt, he⟩ | ⟨hge, avg, havg, he⟩ :=
    s.rx.stepTransition_cases (BitVec.ofNat 32 s.nextNow) (s.lineIn l) <;> rw [he]
  · exact ⟨hc, htotal, hcount, fun hge => absurd hge hlt, fun _ => ⟨rfl, rfl⟩, s.toNat_ofNat_nextNow, rfl, rfl⟩
  · have hquot : avg.toNat = _ := havg ▸ BitVec.toNat_udiv
    have hnext : (addW (BitVec.ofNat 32 s.nextNow) avg).toNat = (s.nextNow + avg.toNat) % 2 ^ 32 := by
      rw [toNat_addW, s.toNat_ofNat_nextNow]
    exact ⟨hc, htotal, hcount, fun _ => ⟨hquot, hnext⟩, fun hlt => absurd hge (not_le.2 hlt), s.toNat_ofNat_nextNow, rfl, rfl⟩

/-- The first sample instant: half a period after the projected edge (41_receiver.md R146). -/
theorem Rx.toNat_firstSample (r : Rx) :
    r.enterAwaitFrame.systimeNextSample.toNat = (r.systimeNextPulse.toNat + r.avgPulseTime.toNat / 2) % 2 ^ 32 := by
  show (addW r.systimeNextPulse (r.avgPulseTime / 2)).toNat = _
  rw [toNat_addW, BitVec.toNat_udiv]
  rfl

/-- The exit test of RX_STEP in ClockSync, in both directions, on naturals (41_receiver.md R145). -/
theorem Rx.stepClockSync_of_no_transition (r : Rx) (now : Tick) :
    r.stepClockSync now r.lastBit =
      if 4 ≤ r.numPulses.toNat ∧ r.avgPulseTime.toNat + r.avgPulseTime.toNat / 2 < ticksSince now r.systimePrevPulse
      then r.enterAwaitFrame else r := by
  rw [← toNat_subW]
  exact if_neg (by simp)

/-- Settles O28: the exit test and what ENTER_AWAITFRAME writes. -/
theorem clockSyncIdleExitsStrictlyAboveThreshold : Obligations.ClockSyncIdleExitsStrictlyAboveThreshold := by
  intro s l hc heq
  refine ⟨_, exec_tick s l, ?_⟩
  rw [s.rx_tick, Rx.step_clockSync _ _ _ _ hc, heq, Rx.stepClockSync_of_no_transition]
  refine ⟨fun hexit => ?_, fun hstay => if_neg hstay⟩
  rw [if_pos hexit]
  exact ⟨s.rx.toNat_firstSample, rfl⟩

/-- Settles O30: between sample instants nothing, and at one the shift with or without a match. -/
theorem awaitFrameTickShiftsAndMatchesTheSentinel : Obligations.AwaitFrameTickShiftsAndMatchesTheSentinel := by
  intro s l ha
  refine ⟨_, exec_tick s l, ?_⟩
  rw [s.rx_tick, Rx.step_awaitFrame _ _ _ _ ha, ← due_iff, ← due_eq_false_iff]
  have hshift := toNat_shiftIn s.rx.frameShiftRegister (s.lineIn l)
  have hcount := toNat_saturate8 s.rx.frameBitPos
  have hnext := toNat_addW s.rx.systimeNextSample s.rx.avgPulseTime
  obtain ⟨hd, he⟩ | ⟨hd, hm, he⟩ | ⟨hd, hm, he⟩ :=
    s.rx.stepAwaitFrame_cases (BitVec.ofNat 32 s.nextNow) (s.lineIn l) <;> rw [he, hd]
  · exact ⟨fun _ => rfl, fun h => absurd h (by decide)⟩
  · exact ⟨fun h => absurd h (by decide), fun _ => ⟨hshift, hcount, hnext, fun h => absurd h hm, fun _ => rfl⟩⟩
  · rw [hm] at hshift
    exact ⟨fun h => absurd h (by decide), fun _ => ⟨hshift, hcount, hnext, fun _ => rfl, fun h => absurd rfl h⟩⟩

/-! ### One sample in Receiving -/

section Receiving
variable {cap : Idx} {r : Rx} {now : Tick}

/-- The receive buffer with a sample in the bit under the cursor (41_receiver.md R149). -/
def Rx.bufferWith (r : Rx) (s : Level) : Mem :=
  r.bitBuffer.write r.bitBufferPos.toNat (putBit (r.bitBuffer.read r.bitBufferPos.toNat) r.bitBufferBit s)

theorem Rx.wf_bufferWith (h : r.bitBuffer.wf = true) (s : Level) : (r.bufferWith s).wf = true := Mem.wf_write h _ _

/-- The byte under the cursor: the sample in its bit, every other bit as it was. -/
theorem Rx.getLsbD_read_bufferWith (h : r.bitBuffer.wf = true) (s : Level) {k : Nat} (hk : k < 8) :
    ((r.bufferWith s).read r.bitBufferPos.toNat).getLsbD k =
      if k = r.bitBufferBit.toNat then s else (r.bitBuffer.read r.bitBufferPos.toNat).getLsbD k := by
  rw [Rx.bufferWith, Mem.read_write_same h, getLsbD_putBit _ _ _ k hk]

theorem Rx.read_bufferWith_other (r : Rx) (s : Level) {a : Nat} (ha : a ≠ r.bitBufferPos.toNat) :
    (r.bufferWith s).read a = r.bitBuffer.read a := Mem.read_write_other _ ha _

/-- The cursor's next byte index, on naturals: below a capacity it does not wrap. -/
theorem toNat_pos_succ {p : Idx} (h : p.toNat < cap.toNat) : (p + 1).toNat = p.toNat + 1 := by
  have := cap.isLt
  rw [BitVec.toNat_add]
  exact Nat.mod_eq_of_lt (show p.toNat + 1 < 2 ^ 12 by omega)

/-- BYTE_DONE as one update: a byte that is not 0 is counted, and a zero byte or a full buffer ends the frame. -/
theorem Rx.byteDone_eq (hr : r.rxState = .receiving) (hlt : r.bitBufferPos.toNat < cap.toNat) (b : Byte) :
    Rx.byteDone cap r b = { r with
      bitBufferBit := 0
      bitBufferPos := if b ≠ 0x00 then r.bitBufferPos + 1 else r.bitBufferPos
      rxState := if b = 0x00 ∨ r.bitBufferPos.toNat + 1 = cap.toNat then .complete else .receiving } := by
  have hfull : r.bitBufferPos + 1 = cap ↔ r.bitBufferPos.toNat + 1 = cap.toNat := by
    rw [← BitVec.toNat_inj, toNat_pos_succ hlt]
  obtain ⟨hb, he⟩ | ⟨hb, hc, he⟩ | ⟨hb, hc, he⟩ := Rx.byteDone_cases cap r b <;> rw [he]
  · rw [if_neg (not_not.2 hb), if_pos (.inl hb)]
  · rw [if_pos hb, if_pos (.inr (hfull.1 hc))]
  · rw [if_pos hb, if_neg (not_or.2 ⟨hb, mt hfull.2 hc⟩), ← hr]

/-- RX_STEP in Receiving at a sample instant as one update (41_receiver.md R149, R150). -/
theorem Rx.stepReceiving_of_due (hr : r.rxState = .receiving) (hlt : r.bitBufferPos.toNat < cap.toNat)
    (hwf : r.bitBuffer.wf = true) (hd : due now r.systimeNextSample = true) (s : Level) :
    Rx.stepReceiving cap r now s = { r with
      systimeNextSample := addW r.systimeNextSample r.avgPulseTime
      bitBuffer := r.bufferWith s
      bitBufferBit := if r.bitBufferBit.toNat = 7 then 0 else r.bitBufferBit + 1
      bitBufferPos := if r.bitBufferBit.toNat = 7 ∧ (r.bufferWith s).read r.bitBufferPos.toNat ≠ 0x00
        then r.bitBufferPos + 1 else r.bitBufferPos
      rxState := if r.bitBufferBit.toNat = 7 ∧ ((r.bufferWith s).read r.bitBufferPos.toNat = 0x00 ∨
          r.bitBufferPos.toNat + 1 = cap.toNat) then .complete else .receiving } := by
  have hbyte : (r.bufferWith s).read r.bitBufferPos.toNat =
      putBit (r.bitBuffer.read r.bitBufferPos.toNat) r.bitBufferBit s := Mem.read_write_same hwf _ _
  obtain ⟨hd', -⟩ | ⟨-, b, m, rfl, hm, ⟨hbit, he⟩ | ⟨hbit, he⟩⟩ := Rx.stepReceiving_cases cap r now s
  · exact absurd (hd.symm.trans hd') (by decide)
  · rw [Mem.writeIn_eq_write hlt] at hm
    have h7 : r.bitBufferBit.toNat ≠ 7 := fun h => hbit (BitVec.eq_of_toNat_eq h)
    rw [he, hm, if_neg h7, if_neg (h7 ·.1), if_neg (h7 ·.1), ← hr]
    rfl
  · rw [Mem.writeIn_eq_write hlt] at hm
    have h7 : r.bitBufferBit.toNat = 7 := congrArg BitVec.toNat hbit
    rw [he, hm, Rx.byteDone_eq (by exact hr) (by exact hlt), hbyte]
    simp only [h7, true_and, if_true]
    rfl

end Receiving

/-- Settles O31: the sample's update of the buffer, bit by bit and byte by byte, and the cursor it leaves. -/
theorem receivingTickWritesOneBitAndEndsBytes : Obligations.ReceivingTickWritesOneBitAndEndsBytes := by
  intro s l hr hlt hwf
  refine ⟨_, exec_tick s l, ?_⟩
  rw [s.rx_tick, Rx.step_receiving _ _ _ _ hr, ← due_iff, ← due_eq_false_iff]
  refine ⟨fun hd => if_neg (by simp [hd]), fun hd => ?_⟩
  rw [Rx.stepReceiving_of_due hr hlt hwf hd]
  exact ⟨toNat_addW _ _, fun k hk => Rx.getLsbD_read_bufferWith hwf _ hk, fun a => s.rx.read_bufferWith_other _, rfl⟩

/-! ### The due test and RX_INIT -/

/-- Ticks since `t` are the distance from `t` up to `now`, modulo the counter's range. -/
theorem ticksSince_eq_iff (now t : Tick) {d : Nat} (hd : d < 2 ^ 32) :
    ticksSince now t = d ↔ now.toNat = (t.toNat + d) % 2 ^ 32 := by
  have hn := now.isLt
  have ht := t.isLt
  simp only [ticksSince, tickW] at *
  omega

/-- Settles O29: due is fewer than `2 ^ 31` ticks since `t`. -/
theorem dueMeansAtOrAfter : Obligations.DueMeansAtOrAfter := by
  refine ⟨fun now t => ?_, by decide⟩
  rw [due_iff]
  constructor
  · intro h
    exact ⟨ticksSince now t, h, (ticksSince_eq_iff now t (ticksSince_lt now t)).1 rfl⟩
  · rintro ⟨d, hd, he⟩
    rwa [(ticksSince_eq_iff now t (by omega)).2 he]

/-- Settles O33: RX_INIT leaves the reset receiver, every field of it 0. -/
theorem rxInitZeroesTheReceiver : Obligations.RxInitZeroesTheReceiver := by
  intro s
  exact ⟨_, exec_rxInit s, rfl, rfl, rfl, rfl, rfl, rfl, rfl, rfl, rfl, rfl, rfl, Mem.read_nil, rfl, rfl, rfl⟩

/-! ### The first sample instant -/

/-- Settles O36: the projected edge is one period after the last transition, so the first sample instant is one tick before this
TICK, which is one before the next. -/
theorem firstSampleInstantIsTwoTicksBeforeTheNextTick : Obligations.FirstSampleInstantIsTwoTicksBeforeTheNextTick := by
  intro s l hc heq hn hnext hidle
  refine ⟨_, exec_tick s l, ?_⟩
  rw [s.rx_tick, Rx.step_clockSync _ _ _ _ hc, heq, Rx.stepClockSync_of_no_transition, if_pos ⟨hn, by omega⟩]
  refine ⟨rfl, (ticksSince_eq_iff _ _ (by decide)).2 ?_⟩
  have hnow := (ticksSince_eq_iff _ _ (hidle ▸ ticksSince_lt _ _)).1 hidle
  rw [s.ofNat_nextNow] at hnow
  rw [s.rx.toNat_firstSample, hnext, State.tick_now, BitVec.toNat_add, BitVec.toNat_add, hnow]
  simp only [tickW, BitVec.ofNat_eq_ofNat, BitVec.toNat_ofNat]
  omega

end Sys2Proof.Machine
end

section
/-! Proofs of the statements on the receiver over many TICKs (41_receiver.md R144, R145, R151, R154, R155, R157). -/

namespace Sys2Proof.Machine

/-! ### The counter over a run -/

/-- The counter `k` ticks after it reads `now`. -/
def tickAt (now : Tick) (k : Nat) : Tick := now + BitVec.ofNat 32 k

section TickAt
variable (now : Tick)

theorem addW_one (t : Tick) : addW t 1 = tickAt t 1 := rfl

@[simp] theorem tickAt_zero : tickAt now 0 = now := BitVec.add_zero now

theorem toNat_tickAt (k : Nat) : (tickAt now k).toNat = (now.toNat + k) % 2 ^ 32 := by
  simp [tickAt, BitVec.toNat_add, tickW]

@[simp] theorem tickAt_tickAt (a b : Nat) : tickAt (tickAt now a) b = tickAt now (a + b) := by
  rw [tickAt, tickAt, tickAt, BitVec.ofNat_add, BitVec.add_assoc]

theorem addW_tickAt_ofNat (k d : Nat) : addW (tickAt now k) (BitVec.ofNat 32 d) = tickAt now (k + d) := tickAt_tickAt now k d

/-- The ticks between two points of a run. -/
theorem ticksSince_tickAt {j k : Nat} (hjk : j ≤ k) (h : k - j < 2 ^ 32) :
    ticksSince (tickAt now k) (tickAt now j) = k - j := by
  rw [ticksSince_eq_iff _ _ h, toNat_tickAt, toNat_tickAt]
  omega

theorem subW_tickAt (k d : Nat) : subW (tickAt now (k + d)) (tickAt now k) = BitVec.ofNat 32 d := by
  rw [← tickAt_tickAt]
  exact add_sub_cancel_left (tickAt now k) (BitVec.ofNat 32 d)

theorem due_tickAt {g k : Nat} (hgk : g ≤ k) (h : k - g < 2 ^ 31) : due (tickAt now k) (tickAt now g) = true := by
  rw [due_iff, ticksSince_tickAt now hgk (by omega)]
  exact h

theorem not_due_tickAt {g k : Nat} (hkg : k < g) (h : g - k ≤ 2 ^ 31) : due (tickAt now k) (tickAt now g) = false := by
  rw [due_eq_false_iff, (ticksSince_eq_iff _ _ (d := 2 ^ 32 - (g - k)) (by omega)).2]
  · omega
  · rw [toNat_tickAt, toNat_tickAt]
    omega

end TickAt

/-! ### The receiver over a run -/

/-- The receiver after `k` ticks of its own on the levels `lv 0`, `lv 1` and so on, the counter reading `now` before the first. -/
def Rx.run (cap : Idx) (now : Tick) (lv : Nat → Level) (r : Rx) : Nat → Rx
  | 0 => r
  | k + 1 => Rx.step cap (Rx.run cap now lv r k) (tickAt now (k + 1)) (lv k)

/-- The level that TICK `i` of the TICKs `ls` samples, counted from 0, where nothing but TICKs is taken from `s` on. -/
def State.levelAt (s : State) (ls : List Level) (i : Nat) : Level :=
  sample s.params.loopback (Tx.tick^[i] s.tx).txOut (ls.getD i false)

section Run
variable {cap : Idx} {now : Tick} {lv : Nat → Level} {r q : Rx} {k d : Nat}

theorem Rx.run_succ (h : Rx.run cap now lv r k = q) :
    Rx.run cap now lv r (k + 1) = Rx.step cap q (tickAt now (k + 1)) (lv k) := by
  rw [Rx.run, h]

/-- A run goes on from where it stands, on the levels that are left. -/
theorem Rx.run_add (cap : Idx) (now : Tick) (lv : Nat → Level) (r : Rx) (a b : Nat) : Rx.run cap now lv r (a + b) =
    Rx.run cap (tickAt now a) (fun i => lv (a + i)) (Rx.run cap now lv r a) b := by
  induction b with
  | zero => rfl
  | succ b ih =>
    rw [Rx.run_succ ih.symm, tickAt_tickAt]
    rfl

/-- A receiver that no TICK of a stretch of a run changes stays as it is. -/
theorem Rx.run_hold (h : Rx.run cap now lv r k = q)
    (hq : ∀ j, k ≤ j → j < k + d → Rx.step cap q (tickAt now (j + 1)) (lv j) = q) : Rx.run cap now lv r (k + d) = q := by
  induction d with
  | zero => exact h
  | succ d ih =>
    rw [← Nat.add_assoc, Rx.run_succ (ih fun j hj hj' => hq j hj (by omega))]
    exact hq (k + d) (by omega) (by omega)

/-- The receiver under TICKs, as a run of its own. -/
theorem foldl_tick_rx (ls : List Level) (s : State) :
    (ls.foldl State.tick s).rx = Rx.run s.params.rxCap s.now (s.levelAt ls) s.rx ls.length := by
  induction ls generalizing s with
  | nil => rfl
  | cons l ls ih =>
    rw [List.foldl_cons, ih, List.length_cons, Nat.add_comm, Rx.run_add]
    simp only [State.levelAt, Nat.add_comm 1, List.getD_cons_succ, Function.iterate_succ_apply]
    rfl

theorem foldl_tick_now (ls : List Level) (s : State) : (ls.foldl State.tick s).now = tickAt s.now ls.length := by
  induction ls generalizing s with
  | nil => exact (tickAt_zero s.now).symm
  | cons l ls ih => rw [List.foldl_cons, ih, State.tick_now, addW_one, tickAt_tickAt, Nat.add_comm]; rfl

/-- Out of loopback a TICK samples its own level. -/
theorem State.levelAt_of_not_loopback {s : State} (h : s.params.loopback = false) (ls : List Level) (i : Nat) :
    s.levelAt ls i = ls.getD i false := by
  rw [State.levelAt, h, sample_of_not_loopback]

/-- In loopback a TICK samples the line as the TICKs before it left it. -/
theorem State.levelAt_of_loopback {s : State} (h : s.params.loopback = true) (ls : List Level) (i : Nat) :
    s.levelAt ls i = (Tx.tick^[i] s.tx).txOut := by
  rw [State.levelAt, h]
  rfl

/-- A complete receiver stays as it is for the rest of a run (41_receiver.md R151). -/
theorem Rx.run_complete (h : Rx.run cap now lv r k = q) (hq : q.rxState = .complete) : Rx.run cap now lv r (k + d) = q :=
  Rx.run_hold h fun _ _ _ => Rx.step_complete cap q _ _ hq

end Run

/-- Settles O32: RX_STEP is the identity in Complete, so a run of it is. -/
theorem completeReceiverIsFrozenUnderTicks : Obligations.CompleteReceiverIsFrozenUnderTicks := by
  intro s ls hc
  have hrx : (ls.foldl State.tick s).rx = s.rx := by
    rw [foldl_tick_rx, ← Nat.zero_add ls.length]
    exact Rx.run_complete rfl hc
  refine ⟨_, execAll_ticks ls s, hrx, ?_⟩
  rw [hrx, Rx.rxComplete, hc]
  rfl

/-! ### The sample grid -/

/-- The receiver has left ClockSync. -/
def Rx.PastClockSync (r : Rx) : Prop := r.rxState = .awaitFrame ∨ r.rxState = .receiving ∨ r.rxState = .complete

/-- `r'` is past ClockSync on the sample grid of `r`, `k` periods on (41_receiver.md R155). -/
structure Rx.GridAfter (r : Rx) (k : Nat) (r' : Rx) : Prop where
  past : r'.PastClockSync
  next : r'.systimeNextSample = r.systimeNextSample + BitVec.ofNat 32 k * r.avgPulseTime
  avg : r'.avgPulseTime = r.avgPulseTime
  lastBit : r'.lastBit = r.lastBit
  prevPulse : r'.systimePrevPulse = r.systimePrevPulse
  nextPulse : r'.systimeNextPulse = r.systimeNextPulse

section Grid
variable {cap : Idx} {r r' r'' : Rx} {now : Tick} {s : Level} {j k : Nat}

theorem Rx.gridAfter_zero (h : r.PastClockSync) : r.GridAfter 0 r := ⟨h, by simp, rfl, rfl, rfl, rfl⟩

theorem Rx.GridAfter.trans (h : r.GridAfter j r') (h' : r'.GridAfter k r'') : r.GridAfter (j + k) r'' where
  past := h'.past
  next := by rw [h'.next, h.next, h.avg, BitVec.ofNat_add, BitVec.add_mul, BitVec.add_assoc]
  avg := h'.avg.trans h.avg
  lastBit := h'.lastBit.trans h.lastBit
  prevPulse := h'.prevPulse.trans h.prevPulse
  nextPulse := h'.nextPulse.trans h.nextPulse

/-- One period on: `r'` differs from `r` in the schedule, and in nothing else of the grid. -/
theorem Rx.gridAfter_one (hp : r'.PastClockSync) (hn : r'.systimeNextSample = addW r.systimeNextSample r.avgPulseTime)
    (ha : r'.avgPulseTime = r.avgPulseTime) (hl : r'.lastBit = r.lastBit)
    (hpp : r'.systimePrevPulse = r.systimePrevPulse) (hnp : r'.systimeNextPulse = r.systimeNextPulse) :
    r.GridAfter 1 r' :=
  ⟨hp, by rw [hn, addW, BitVec.one_mul], ha, hl, hpp, hnp⟩

/-- BYTE_DONE touches nothing of the grid. -/
theorem Rx.GridAfter.byteDone (h : r.GridAfter k r') (b : Byte) : r.GridAfter k (Rx.byteDone cap r' b) := by
  obtain ⟨-, he⟩ | ⟨-, -, he⟩ | ⟨-, -, he⟩ := Rx.byteDone_cases cap r' b <;> rw [he]
  · exact { h with past := .inr (.inr rfl) }
  · exact { h with past := .inr (.inr rfl) }
  · exact { h with past := h.past }

/-- RX_STEP after ClockSync leaves the schedule or advances it by one period (41_receiver.md R154). -/
theorem Rx.gridAfter_step (h : r.PastClockSync) :
    ∃ k ≤ 1, r.GridAfter k (Rx.step cap r now s) := by
  obtain hr | hr | hr := h
  · rw [Rx.step_awaitFrame cap r now s hr]
    obtain ⟨-, he⟩ | ⟨-, -, he⟩ | ⟨-, -, he⟩ := r.stepAwaitFrame_cases now s <;> rw [he]
    · exact ⟨0, by omega, Rx.gridAfter_zero (.inl hr)⟩
    · exact ⟨1, le_rfl, Rx.gridAfter_one (.inl hr) rfl rfl rfl rfl rfl⟩
    · exact ⟨1, le_rfl, Rx.gridAfter_one (.inr (.inl rfl)) rfl rfl rfl rfl rfl⟩
  · rw [Rx.step_receiving cap r now s hr]
    obtain ⟨-, he⟩ | ⟨-, b, m, -, -, ⟨-, he⟩ | ⟨-, he⟩⟩ := Rx.stepReceiving_cases cap r now s <;> rw [he]
    · exact ⟨0, by omega, Rx.gridAfter_zero (.inr (.inl hr))⟩
    · exact ⟨1, le_rfl, Rx.gridAfter_one (.inr (.inl hr)) rfl rfl rfl rfl rfl⟩
    · have hone : r.GridAfter 1 { r with
          systimeNextSample := addW r.systimeNextSample r.avgPulseTime, bitBuffer := m } :=
        Rx.gridAfter_one (.inr (.inl hr)) rfl rfl rfl rfl rfl
      exact ⟨1, le_rfl, hone.byteDone b⟩
  · rw [Rx.step_complete cap r now s hr]
    exact ⟨0, by omega, Rx.gridAfter_zero (.inr (.inr hr))⟩

/-- A run after ClockSync keeps the grid, at most one period a TICK. -/
theorem Rx.gridAfter_run (h : r.PastClockSync) (lv : Nat → Level) (n : Nat) :
    ∃ k ≤ n, r.GridAfter k (Rx.run cap now lv r n) := by
  induction n with
  | zero => exact ⟨0, le_rfl, Rx.gridAfter_zero h⟩
  | succ n ih =>
    obtain ⟨k, hk, hgrid⟩ := ih
    obtain ⟨j, hj, hstep⟩ := Rx.gridAfter_step (cap := cap) (now := tickAt now (n + 1)) (s := lv n) hgrid.past
    exact ⟨k + j, by omega, hgrid.trans hstep⟩

end Grid

/-- Settles O35: RX_STEP keeps the grid, so a run of it does. -/
theorem sampleGridIsFixedAfterClockSync : Obligations.SampleGridIsFixedAfterClockSync := by
  intro s ls hs
  obtain ⟨k, hk, hgrid⟩ := Rx.gridAfter_run (cap := s.params.rxCap) (now := s.now) hs (s.levelAt ls) ls.length
  rw [← foldl_tick_rx] at hgrid
  exact ⟨_, k, execAll_ticks ls s, hk, hgrid.next, hgrid.avg, hgrid.lastBit, hgrid.prevPulse, hgrid.nextPulse⟩

/-! ### ClockSync between two transitions -/

section Idle
variable {cap : Idx} {now : Tick} {lv : Nat → Level} {r q : Rx} {k d : Nat}

/-- ClockSync holds between transitions until the idle time is above the threshold (41_receiver.md R145). -/
theorem Rx.run_idle (h : Rx.run cap now lv r k = q) (hq : q.rxState = .clockSync) (hprev : q.systimePrevPulse = tickAt now k)
    (hlv : ∀ j, k ≤ j → j < k + d → lv j = q.lastBit)
    (hidle : 4 ≤ q.numPulses.toNat → d ≤ q.avgPulseTime.toNat + q.avgPulseTime.toNat / 2) (hd : d < 2 ^ 32) :
    Rx.run cap now lv r (k + d) = q := by
  refine Rx.run_hold h fun j hj hj' => ?_
  rw [Rx.step_clockSync _ _ _ _ hq, hlv j hj hj', Rx.stepClockSync_of_no_transition, hprev,
    ticksSince_tickAt now (by omega) (by omega)]
  exact if_neg fun hexit => by have := hidle hexit.1; omega

/-- The first TICK of an idle time above the threshold enters AwaitFrame (41_receiver.md R145, R146). -/
theorem Rx.run_exit (h : Rx.run cap now lv r k = q) (hq : q.rxState = .clockSync) (hprev : q.systimePrevPulse = tickAt now k)
    (hn : 4 ≤ q.numPulses.toNat) (hd : d = q.avgPulseTime.toNat + q.avgPulseTime.toNat / 2) (hd' : d + 1 < 2 ^ 32)
    (hlv : ∀ j, k ≤ j → j ≤ k + d → lv j = q.lastBit) :
    Rx.run cap now lv r (k + d + 1) = q.enterAwaitFrame := by
  have hold : Rx.run cap now lv r (k + d) = q :=
    Rx.run_idle h hq hprev (fun j hj hj' => hlv j hj hj'.le) (fun _ => hd.le) (by omega)
  rw [Rx.run_succ hold, Rx.step_clockSync _ _ _ _ hq, hlv (k + d) (by omega) le_rfl, Rx.stepClockSync_of_no_transition,
    hprev, ticksSince_tickAt now (by omega) (by omega)]
  exact if_pos ⟨hn, by omega⟩

end Idle

theorem getD_replicate_of_lt {n i : Nat} (b : Level) (h : i < n) : (List.replicate n b).getD i false = b := by
  rw [List.getD_eq_getElem _ _ (by rwa [List.length_replicate]), List.getElem_replicate]

theorem execAll_replicate_tick (n : Nat) (b : Level) (s : State) :
    execAll (List.replicate n (.tick b)) s = .next ((List.replicate n b).foldl State.tick s) := by
  rw [← List.map_replicate, execAll_ticks]

/-- The receiver after equal TICKs out of loopback. -/
theorem foldl_tick_replicate_rx {s : State} (h : s.params.loopback = false) (n : Nat) (b : Level) :
    ∃ lv, (∀ i < n, lv i = b) ∧
      ((List.replicate n b).foldl State.tick s).rx = Rx.run s.params.rxCap s.now lv s.rx n := by
  refine ⟨s.levelAt (List.replicate n b), fun i hi => ?_, by rw [foldl_tick_rx, List.length_replicate]⟩
  rw [State.levelAt_of_not_loopback h, List.getD_replicate _ hi]

/-- Settles O38: ClockSync holds up to the threshold, and the next TICK exits. -/
theorem idleGapAtThresholdStaysAndOneMoreExits : Obligations.IdleGapAtThresholdStaysAndOneMoreExits := by
  intro s hl hc hn hprev hbound
  rw [← tickAt_zero s.now] at hprev
  refine ⟨⟨_, execAll_replicate_tick _ _ s, ?_⟩, ⟨_, execAll_replicate_tick _ _ s, ?_⟩⟩
  · obtain ⟨lv, hlv, hrx⟩ := foldl_tick_replicate_rx hl (s.rx.avgPulseTime.toNat + s.rx.avgPulseTime.toNat / 2) s.rx.lastBit
    have hstay := Rx.run_idle (cap := s.params.rxCap) (lv := lv) (q := s.rx) (k := 0) rfl hc hprev
      (fun j _ hj => hlv j (by rwa [Nat.zero_add] at hj)) (fun _ => le_rfl) (by omega)
    rwa [Nat.zero_add, ← hrx] at hstay
  · obtain ⟨lv, hlv, hrx⟩ :=
      foldl_tick_replicate_rx hl (s.rx.avgPulseTime.toNat + s.rx.avgPulseTime.toNat / 2 + 1) s.rx.lastBit
    have hexit := Rx.run_exit (cap := s.params.rxCap) (lv := lv) (q := s.rx) (k := 0) rfl hc hprev hn rfl hbound
      (fun j _ hj => hlv j (Nat.lt_succ_of_le (by rwa [Nat.zero_add] at hj)))
    rw [Nat.zero_add, ← hrx] at hexit
    rw [hexit]
    rfl

/-! ### Equal intervals -/

/-- The receiver `n` intervals of `T` ticks after its first transition, which a Waiting receiver `r` with the line low took in the
first TICK after the counter read `now` (41_receiver.md R142 to R144). -/
def Rx.afterIntervals (r : Rx) (now : Tick) (T n : Nat) : Rx :=
  { r with
    rxState := .clockSync
    lastBit := n % 2 == 0
    pulseTimeTotal := BitVec.ofNat 32 (n * T)
    numPulses := BitVec.ofNat 32 n
    avgPulseTime := if 4 ≤ n then BitVec.ofNat 32 T else 0
    systimePrevPulse := tickAt now (n * T + 1)
    systimeNextPulse := if 4 ≤ n then tickAt now (n * T + 1 + T) else r.systimeNextPulse }

section Intervals
variable {cap : Idx} {now : Tick} {lv : Nat → Level} {r : Rx} {T n : Nat}

/-- The mean of equal intervals whose sum does not wrap is the interval. -/
theorem ofNat_mul_div_ofNat (hn : 1 ≤ n) (hT : 1 ≤ T) (h : n * T < 2 ^ 32) :
    (BitVec.ofNat 32 (n * T) : Tick) / BitVec.ofNat 32 n = BitVec.ofNat 32 T := by
  have hn' : n < 2 ^ 32 := lt_of_le_of_lt (Nat.le_mul_of_pos_right n hT) h
  have hT' : T < 2 ^ 32 := lt_of_le_of_lt (Nat.le_mul_of_pos_left T hn) h
  apply BitVec.eq_of_toNat_eq
  rw [BitVec.toNat_udiv, BitVec.toNat_ofNat, BitVec.toNat_ofNat, BitVec.toNat_ofNat, Nat.mod_eq_of_lt h,
    Nat.mod_eq_of_lt hn', Nat.mod_eq_of_lt hT', Nat.mul_div_cancel_left T hn]

theorem Rx.toNat_numPulses_afterIntervals (h : n < 2 ^ 32) : (r.afterIntervals now T n).numPulses.toNat = n :=
  (BitVec.toNat_ofNat n 32).trans (Nat.mod_eq_of_lt h)

theorem Rx.toNat_avg_afterIntervals (hn : 4 ≤ n) (h : T < 2 ^ 32) : (r.afterIntervals now T n).avgPulseTime.toNat = T := by
  show BitVec.toNat (if 4 ≤ n then BitVec.ofNat 32 T else 0) = T
  rw [if_pos hn, BitVec.toNat_ofNat, Nat.mod_eq_of_lt h]

/-- A transition one interval later folds it in (41_receiver.md R143, R144). -/
theorem Rx.stepTransition_afterIntervals (hT : 1 ≤ T) (h : (n + 1) * T < 2 ^ 32) :
    (r.afterIntervals now T n).stepTransition (tickAt now ((n + 1) * T + 1)) ((n + 1) % 2 == 0) =
      r.afterIntervals now T (n + 1) := by
  have hn : n + 1 < 2 ^ 32 := lt_of_le_of_lt (Nat.le_mul_of_pos_right _ hT) h
  have htotal : addW (BitVec.ofNat 32 (n * T)) (subW (tickAt now ((n + 1) * T + 1)) (tickAt now (n * T + 1))) =
      BitVec.ofNat 32 ((n + 1) * T) := by
    rw [show (n + 1) * T + 1 = n * T + 1 + T by ring, subW_tickAt, addW, ← BitVec.ofNat_add, Nat.succ_mul]
  have hcount : addW (BitVec.ofNat 32 n) 1 = BitVec.ofNat 32 (n + 1) := by rw [addW, BitVec.ofNat_add]; rfl
  have hcount' : (addW (r.afterIntervals now T n).numPulses 1).toNat = n + 1 :=
    (congrArg BitVec.toNat hcount).trans ((BitVec.toNat_ofNat _ _).trans (Nat.mod_eq_of_lt hn))
  obtain ⟨hlt, he⟩ | ⟨hge, avg, havg, he⟩ :=
    (r.afterIntervals now T n).stepTransition_cases (tickAt now ((n + 1) * T + 1)) ((n + 1) % 2 == 0) <;> rw [he]
  · have h3 : ¬ 4 ≤ n + 1 := hcount' ▸ hlt
    simp only [Rx.afterIntervals, htotal, hcount, if_neg h3, if_neg (show ¬ 4 ≤ n by omega)]
  · have h4 : 4 ≤ n + 1 := hcount' ▸ hge
    have havg' : avg = BitVec.ofNat 32 T := by
      rw [havg, ← ofNat_mul_div_ofNat (by omega) hT h, ← htotal, ← hcount]
      rfl
    simp only [Rx.afterIntervals, htotal, hcount, if_pos h4, havg', addW_tickAt_ofNat]

/-- Equal intervals on an alternating line: ClockSync with `n` of them in after the TICK of transition `n` (41_receiver.md R157). -/
theorem Rx.run_afterIntervals (hw : r.rxState = .waiting) (hlow : r.lastBit = false) (hT : 1 ≤ T) (h : n * T < 2 ^ 32)
    (hlv : ∀ i ≤ n * T, lv i = (i / T % 2 == 0)) :
    Rx.run cap now lv r (n * T + 1) = r.afterIntervals now T n := by
  induction n with
  | zero =>
    have h0 : lv 0 = true := by rw [hlv 0 (Nat.zero_le _), Nat.zero_div]; rfl
    rw [Nat.zero_mul, Rx.run_succ rfl, h0]
    show Rx.step cap r (tickAt now 1) true = _
    rw [Rx.step_waiting _ _ _ _ hw]
    obtain ⟨hs, -⟩ | ⟨-, he⟩ := r.stepWaiting_cases (tickAt now 1) true
    · exact absurd (hs.trans hlow) (by decide)
    · rw [he, Rx.afterIntervals, Nat.zero_mul]
      rfl
  | succ n ih =>
    have hle : n * T ≤ (n + 1) * T := Nat.mul_le_mul_right T (Nat.le_succ n)
    have hmul : (n + 1) * T = n * T + T := Nat.succ_mul n T
    have hprev := ih (by omega) fun i hi => hlv i (hi.trans hle)
    have hlevel {j : Nat} (hj : n * T ≤ j) (hj' : j < n * T + T) : lv j = (n % 2 == 0) := by
      rw [hlv j (by omega), Nat.div_eq_of_lt_le hj (by omega)]
    have hn : n < 2 ^ 32 := lt_of_le_of_lt (Nat.le_mul_of_pos_right n hT) (hle.trans_lt h)
    have hidle : Rx.run cap now lv r ((n + 1) * T) = r.afterIntervals now T n := by
      rw [hmul, show n * T + T = n * T + 1 + (T - 1) by omega]
      refine Rx.run_idle hprev rfl rfl (fun j hj hj' => hlevel (by omega) (by omega)) (fun h4 => ?_) (by omega)
      rw [Rx.toNat_numPulses_afterIntervals hn] at h4
      rw [Rx.toNat_avg_afterIntervals h4 (by omega)]
      omega
    have hne : ((n + 1) % 2 == 0) ≠ (n % 2 == 0) := by
      rw [ne_eq, Bool.eq_iff_iff, beq_iff_eq, beq_iff_eq]
      omega
    rw [Rx.run_succ hidle, hlv _ le_rfl, Nat.mul_div_cancel _ hT, ← Rx.stepTransition_afterIntervals hT h,
      Rx.step_clockSync _ _ _ _ rfl]
    exact if_pos (bne_iff_ne.2 hne)

end Intervals

/-! ### Waves -/

section Stretch
variable {T : Nat}

theorem length_stretch (T : Nat) (ls : List Level) : (stretch T ls).length = ls.length * T := by
  simp [stretch, List.length_flatMap]

/-- A wave whose levels are held `T` ticks shows level `i div T` at tick `i`. -/
theorem getD_stretch (hT : 1 ≤ T) (ls : List Level) (i : Nat) : (stretch T ls).getD i false = ls.getD (i / T) false := by
  induction ls generalizing i with
  | nil => rfl
  | cons l ls ih =>
    rw [stretch, List.flatMap_cons]
    rcases lt_or_ge i T with hi | hi
    · rw [List.getD_append _ _ _ _ (by rwa [List.length_replicate]), Nat.div_eq_of_lt hi, List.getD_cons_zero,
        List.getD_replicate _ hi]
    · rw [List.getD_append_right _ _ _ _ (by rwa [List.length_replicate]), List.length_replicate, Nat.div_eq_sub_div hT hi,
        List.getD_cons_succ]
      exact ih (i - T)

end Stretch

/-- Settles O37: the four intervals are equal, so their mean is each of them. -/
theorem fourEqualIntervalsGiveThatPeriod : Obligations.FourEqualIntervalsGiveThatPeriod := by
  intro s T hl hw hlow hT h
  have hlen : (stretch T [true, false, true, false]).length = 4 * T := length_stretch T _
  have hlv : ∀ i ≤ 4 * T, s.levelAt (stretch T [true, false, true, false] ++ [true]) i = (i / T % 2 == 0) := by
    intro i hi
    rw [State.levelAt_of_not_loopback hl]
    rcases hi.lt_or_eq with hi | rfl
    · have hdiv : i / T < 4 := Nat.div_lt_of_lt_mul (by rwa [Nat.mul_comm])
      rw [List.getD_append _ _ _ _ (by rwa [hlen]), getD_stretch hT]
      interval_cases i / T <;> rfl
    · rw [List.getD_append_right _ _ _ _ hlen.le, hlen, Nat.mul_div_cancel 4 hT, Nat.sub_self]
      rfl
  refine ⟨_, execAll_ticks _ s, ?_⟩
  rw [foldl_tick_rx, foldl_tick_now, List.length_append, hlen, List.length_singleton,
    Rx.run_afterIntervals hw hlow hT h hlv]
  refine ⟨rfl, rfl, Rx.toNat_avg_afterIntervals le_rfl (by omega), ?_⟩
  show (tickAt s.now (4 * T + 1 + T)).toNat = _
  rw [toNat_tickAt, toNat_tickAt]
  omega

end Sys2Proof.Machine
end

section
/-! Proofs of the statements on whole transfers (41_receiver.md R150, R157, 70_reset_and_hazards.md R256): a freshly initialised
receiver on a line that shows the line format, each level held `T` ticks, followed from the first transition to the frame's end. -/

namespace Sys2Proof.Machine

/-! ### Where the levels are sampled -/

/-- The tick, counted from 0, at the middle of level `k` of a wave whose levels are held `T` ticks. -/
def midTick (T k : Nat) : Nat := k * T + T / 2

/-- The sample instant of level `k`: the TICK of `midTick T k`, which comes one after it in the counter. At a period of 1 the two ticks
from the first instant to the first sample are never made up, so the instant stays two ticks before the TICK (10_state.md R51). -/
def sampleInstant (T k : Nat) : Nat := if T = 1 then k - 1 else midTick T k + 1

section Samples
variable {T k : Nat}

theorem midTick_succ (T k : Nat) : midTick T (k + 1) = midTick T k + T := by
  simp only [midTick, Nat.succ_mul]
  omega

theorem midTick_div (hT : 1 ≤ T) (k : Nat) : midTick T k / T = k := by
  rw [midTick, Nat.mul_comm, Nat.mul_add_div hT, Nat.div_eq_of_lt (by omega), Nat.add_zero]

theorem sampleInstant_of_one (k : Nat) : sampleInstant 1 k = k - 1 := if_pos rfl

theorem sampleInstant_of_two_le (hT : 2 ≤ T) (k : Nat) : sampleInstant T k = midTick T k + 1 := if_neg (by omega)

theorem sampleInstant_succ (hT : 1 ≤ T) (hk : 1 ≤ k) : sampleInstant T (k + 1) = sampleInstant T k + T := by
  rcases hT.eq_or_lt with rfl | hT
  · simp only [sampleInstant_of_one]
    omega
  · simp only [sampleInstant_of_two_le hT, midTick_succ]
    omega

/-- Preamble and the first level of Sync alternate (30_encoding.md R80). -/
theorem lineLevel_alternates {bytes : List Byte} (h : k < 9) : lineLevel bytes k = (k % 2 == 0) := by
  interval_cases k <;> rfl

/-- The first half of Sync is high, at every tick of its levels. -/
theorem lineLevel_high {bytes : List Byte} {i : Nat} (hT : 1 ≤ T) (h : 8 * T ≤ i) (h' : i < 12 * T) :
    lineLevel bytes (i / T) = true := by
  have hlo : 8 ≤ i / T := (Nat.le_div_iff_mul_le hT).2 h
  have hhi : i / T < 12 := (Nat.div_lt_iff_lt_mul hT).2 h'
  rw [lineLevel_sync hlo (by omega), decide_eq_true (by omega)]

theorem lineLevel_low {bytes : List Byte} (h : 12 ≤ k) (h' : k < 16) : lineLevel bytes k = false := by
  rw [lineLevel_sync (by omega) h', decide_eq_false (by omega)]

/-- Half a period, as the tick value the rules compute it in (41_receiver.md R146). -/
theorem ofNat_half (h : T < 2 ^ 32) : (BitVec.ofNat 32 T : Tick) / 2 = BitVec.ofNat 32 (T / 2) := by
  apply BitVec.eq_of_toNat_eq
  rw [BitVec.toNat_udiv, BitVec.toNat_ofNat, BitVec.toNat_ofNat, Nat.mod_eq_of_lt h, Nat.mod_eq_of_lt (by omega)]
  rfl

/-- The payload and the low line after it, bit by bit. -/
theorem lineLevel_payload (bytes : List Byte) (p : Nat) :
    lineLevel bytes (16 + p) = (bytes.getD (p / 8) 0).getLsbD (p % 8) := by
  have hdiv : (16 + p) / 8 = p / 8 + 1 + 1 := by omega
  have hmod : (16 + p) % 8 = p % 8 := by omega
  rw [lineLevel_eq_getLsbD, hdiv, hmod, List.getD_cons_succ, List.getD_cons_succ]

end Samples

/-! ### From one sample to the next -/

/-- The receiver's schedule: a period of `T` ticks, and the next sample instant tick `g` of a run from `now`. -/
structure Rx.Scheduled (now : Tick) (T g : Nat) (q : Rx) : Prop where
  avg : q.avgPulseTime = BitVec.ofNat 32 T
  next : q.systimeNextSample = tickAt now g

/-- A sample advances the schedule by one period. -/
theorem Rx.Scheduled.advance {now : Tick} {T g : Nat} {q q' : Rx} (h : q.Scheduled now T g)
    (ha : q'.avgPulseTime = q.avgPulseTime) (hn : q'.systimeNextSample = addW q.systimeNextSample q.avgPulseTime) :
    q'.Scheduled now T (g + T) :=
  ⟨ha.trans h.avg, by rw [hn, h.next, h.avg, addW_tickAt_ofNat]⟩

section Sample
variable {cap : Idx} {now : Tick} {lv : Nat → Level} {r q : Rx} {T k t g : Nat} {f : Byte} {s : Level}

/-- Between sample instants RX_STEP changes nothing in AwaitFrame and Receiving (41_receiver.md R148, R149). -/
theorem Rx.step_of_not_due (hq : q.rxState = .awaitFrame ∨ q.rxState = .receiving)
    (hd : due now q.systimeNextSample = false) : Rx.step cap q now s = q := by
  obtain hq | hq := hq
  · rw [Rx.step_awaitFrame _ _ _ _ hq]
    exact if_neg (by simp [hd])
  · rw [Rx.step_receiving _ _ _ _ hq]
    exact if_neg (by simp [hd])

/-- A receiver whose next sample instant is tick `g` of the run samples next in the TICK of tick `t`: the one that reaches the instant, or
the very next one where the instant is past already. -/
theorem Rx.run_to_sample (h : Rx.run cap now lv r k = q) (hq : q.rxState = .awaitFrame ∨ q.rxState = .receiving)
    (hs : q.Scheduled now T g) (hkt : k ≤ t) (ht : t < g ∨ t = k) (hgt : g ≤ t + 1)
    (hlate : t + 1 - g < 2 ^ 31) (hsoon : g - k ≤ 2 ^ 31) :
    Rx.run cap now lv r (t + 1) = Rx.step cap q (tickAt now (t + 1)) (lv t) ∧
      due (tickAt now (t + 1)) q.systimeNextSample = true := by
  have hold : Rx.run cap now lv r t = q := by
    rw [← Nat.add_sub_cancel' hkt]
    refine Rx.run_hold h fun j hj hj' => Rx.step_of_not_due hq ?_
    rw [hs.next, not_due_tickAt now (by omega) (by omega)]
  exact ⟨Rx.run_succ hold, by rw [hs.next, due_tickAt now hgt hlate]⟩

/-- From the sample of level `k` to the sample of the next level, at that level's middle. -/
theorem Rx.run_to_next_sample (hT : 1 ≤ T) (hT' : T < 2 ^ 31) (h : Rx.run cap now lv r (midTick T k + 1) = q)
    (hq : q.rxState = .awaitFrame ∨ q.rxState = .receiving) 
    (hs : q.Scheduled now T (sampleInstant T (k + 1))) :
    Rx.run cap now lv r (midTick T (k + 1) + 1) =
        Rx.step cap q (tickAt now (midTick T (k + 1) + 1)) (lv (midTick T (k + 1))) ∧
      due (tickAt now (midTick T (k + 1) + 1)) q.systimeNextSample = true := by
  have hmid := midTick_succ T k
  rcases hT.eq_or_lt with rfl | hT2
  · have hk : midTick 1 k = k := Nat.mul_one k
    rw [sampleInstant_of_one] at hs
    exact Rx.run_to_sample h hq hs (by omega) (by omega) (by omega) (by omega) (by omega)
  · rw [sampleInstant_of_two_le hT2] at hs
    exact Rx.run_to_sample h hq hs (by omega) (by omega) (by omega) (by omega) (by omega)

/-! ### AwaitFrame -/

/-- The receiver in AwaitFrame, on schedule, with `f` in the frame register. -/
structure Rx.Awaiting (now : Tick) (T g : Nat) (f : Byte) (q : Rx) : Prop where
  state : q.rxState = .awaitFrame
  sched : q.Scheduled now T g
  frame : q.frameShiftRegister = f
  wf : q.bitBuffer.wf = true

/-- A sample that makes no match is shifted in, and the schedule advances (41_receiver.md R148). -/
theorem Rx.Awaiting.shift (h : q.Awaiting now T g f) {n : Tick} (hd : due n q.systimeNextSample = true)
    (hm : shiftIn f s ≠ 0x0F) : (Rx.step cap q n s).Awaiting now T (g + T) (shiftIn f s) := by
  rw [Rx.step_awaitFrame _ _ _ _ h.state]
  obtain ⟨hd', -⟩ | ⟨-, -, he⟩ | ⟨-, hm', -⟩ := q.stepAwaitFrame_cases n s
  · exact absurd (hd.symm.trans hd') (by decide)
  · rw [he, h.frame]
    exact ⟨h.state, h.sched.advance rfl rfl, rfl, h.wf⟩
  · exact absurd (h.frame ▸ hm') hm

/-- A sample early or late within a stretch of a run, shifted in. -/
theorem Rx.run_shift (h : (Rx.run cap now lv r k).Awaiting now T g f) (hkt : k ≤ t) (ht : t < g ∨ t = k) (hgt : g ≤ t + 1)
    (hlate : t + 1 - g < 2 ^ 31) (hsoon : g - k ≤ 2 ^ 31) (hm : shiftIn f (lv t) ≠ 0x0F) :
    (Rx.run cap now lv r (t + 1)).Awaiting now T (g + T) (shiftIn f (lv t)) := by
  obtain ⟨he, hd⟩ := Rx.run_to_sample rfl (.inl h.state) h.sched hkt ht hgt hlate hsoon
  rw [he]
  exact h.shift hd hm

end Sample

/-! ### The bytes recorded -/

/-- The first `p` bits of a buffer, bytes least significant bit first, are those of `bytes`, read as 0 after their end. -/
def Mem.Holds (m : Mem) (bytes : List Byte) (p : Nat) : Prop :=
  ∀ i < p, (m.read (i / 8)).getLsbD (i % 8) = (bytes.getD (i / 8) 0).getLsbD (i % 8)

theorem Mem.Holds.read {m : Mem} {bytes : List Byte} {p j : Nat} (h : m.Holds bytes p) (hj : 8 * j + 8 ≤ p) :
    m.read j = bytes.getD j 0 := by
  apply BitVec.eq_of_getLsbD_eq
  intro k hk
  have hdiv : (8 * j + k) / 8 = j := by omega
  have hmod : (8 * j + k) % 8 = k := by omega
  have hbit := h (8 * j + k) (by omega)
  rwa [hdiv, hmod] at hbit

theorem Mem.Holds.mono {m : Mem} {bytes : List Byte} {p p' : Nat} (h : m.Holds bytes p) (hp : p' ≤ p) : m.Holds bytes p' :=
  fun i hi => h i (hi.trans_le hp)

/-- The bytes up to the first 0 and at most `cap` of them, by their number `n`. -/
theorem take_takeWhile_ne_zero {bytes : List Byte} {n cap : Nat} (hne : ∀ j < n, bytes.getD j 0 ≠ 0x00) (hle : n ≤ cap)
    (hend : n = cap ∨ bytes.getD n 0 = 0x00) :
    (bytes.takeWhile (· != 0x00)).take cap = (List.range n).map (bytes.getD · 0) := by
  induction bytes generalizing n cap with
  | nil =>
    have hn : n = 0 := by
      by_contra h0
      exact hne 0 (by omega) rfl
    subst hn
    simp
  | cons b bs ih =>
    cases n with
    | zero =>
      obtain rfl | hb := hend
      · rfl
      · rw [List.getD_cons_zero] at hb
        simp [hb]
    | succ n =>
      obtain ⟨c, rfl⟩ : ∃ c, cap = c + 1 := ⟨cap - 1, by omega⟩
      have hb : b ≠ 0x00 := hne 0 (Nat.succ_pos n)
      rw [List.takeWhile_cons_of_pos (p := (· != 0x00)) (bne_iff_ne.2 hb), List.take_succ_cons,
        List.range_succ_eq_map, List.map_cons, List.map_map, ih (fun j hj => hne (j + 1) (by omega)) (by omega) (hend.imp_left (by omega))]
      rfl

/-- A complete receiver that has recorded `bytes` up to the first `0x00` or the capacity. -/
structure Rx.Recorded (cap : Idx) (bytes : List Byte) (q : Rx) : Prop where
  state : q.rxState = .complete
  bytes : q.bitBuffer.bytes q.bitBufferPos.toNat = (bytes.takeWhile (· != 0x00)).take cap.toNat

/-- A receiver in Receiving that has recorded the first `p` bits of `bytes`, no byte of them 0. -/
structure Rx.Recording (cap : Idx) (bytes : List Byte) (p : Nat) (q : Rx) : Prop where
  state : q.rxState = .receiving
  pos : q.bitBufferPos.toNat = p / 8
  bit : q.bitBufferBit.toNat = p % 8
  room : q.bitBufferPos.toNat < cap.toNat
  wf : q.bitBuffer.wf = true
  holds : q.bitBuffer.Holds bytes p
  ne_zero : ∀ j < p / 8, bytes.getD j 0 ≠ 0x00

section Recording
variable {cap : Idx} {bytes : List Byte} {q : Rx} {p : Nat} {now : Tick} {s : Level}

/-- The sample of bit `p` under the cursor makes the buffer hold one bit more. -/
theorem Rx.Recording.holds_bufferWith (h : q.Recording cap bytes p) (hs : s = (bytes.getD (p / 8) 0).getLsbD (p % 8)) :
    (q.bufferWith s).Holds bytes (p + 1) := by
  intro i hi
  by_cases hbyte : i / 8 = p / 8
  · have hread := Rx.getLsbD_read_bufferWith h.wf s (k := i % 8) (by omega)
    rw [h.pos, h.bit, ← hbyte] at hread
    rw [hread]
    split_ifs with hbit
    · rw [hs, hbyte, hbit]
    · exact h.holds i (by omega)
  · rw [Rx.read_bufferWith_other q _ (by rwa [h.pos])]
    have hne : i ≠ p := fun he => hbyte (by rw [he])
    exact h.holds i (by omega)

/-- The sample that completes the sentinel starts Receiving with the cursor at bit 0 (41_receiver.md R148). -/
theorem Rx.Awaiting.step_matches {T g : Nat} {f : Byte} {n : Tick} (h : q.Awaiting now T g f)
    (hd : due n q.systimeNextSample = true) (hm : shiftIn f s = 0x0F) (hcap : 1 ≤ cap.toNat) :
    (Rx.step cap q n s).Recording cap bytes 0 ∧ (Rx.step cap q n s).Scheduled now T (g + T) := by
  rw [Rx.step_awaitFrame _ _ _ _ h.state]
  obtain ⟨hd', -⟩ | ⟨-, hm', -⟩ | ⟨-, -, he⟩ := q.stepAwaitFrame_cases n s
  · exact absurd (hd.symm.trans hd') (by decide)
  · exact absurd (h.frame ▸ hm) hm'
  · rw [he]
    exact ⟨⟨rfl, rfl, rfl, hcap, h.wf, fun i hi => absurd hi (Nat.not_lt_zero i), fun j hj => absurd hj (Nat.not_lt_zero j)⟩,
      h.sched.advance rfl rfl⟩

/-- A complete receiver whose buffer holds the bytes it has counted, ended by the capacity or by a zero byte. -/
theorem Rx.recorded_of_holds (hstate : q.rxState = .complete) (hholds : q.bitBuffer.Holds bytes (8 * q.bitBufferPos.toNat))
    (hne : ∀ j < q.bitBufferPos.toNat, bytes.getD j 0 ≠ 0x00) (hle : q.bitBufferPos.toNat ≤ cap.toNat)
    (hend : q.bitBufferPos.toNat = cap.toNat ∨ bytes.getD q.bitBufferPos.toNat 0 = 0x00) : q.Recorded cap bytes where
  state := hstate
  bytes := by
    rw [take_takeWhile_ne_zero hne hle hend, Mem.bytes]
    refine List.map_congr_left fun j hj => hholds.read ?_
    have := List.mem_range.1 hj
    omega

/-- A sample within a byte: one bit more is recorded. -/
theorem Rx.Recording.step_within_byte (h : q.Recording cap bytes p) (hd : due now q.systimeNextSample = true)
    (hs : s = (bytes.getD (p / 8) 0).getLsbD (p % 8)) (h7 : p % 8 ≠ 7) :
    (Rx.step cap q now s).Recording cap bytes (p + 1) := by
  have hbit : q.bitBufferBit.toNat ≠ 7 := by rwa [h.bit]
  have hdiv : (p + 1) / 8 = p / 8 := by omega
  have hnext : (q.bitBufferBit + 1).toNat = (p + 1) % 8 := by
    rw [BitVec.toNat_add, h.bit]
    show (p % 8 + 1) % 8 = (p + 1) % 8
    omega
  rw [Rx.step_receiving _ _ _ _ h.state, Rx.stepReceiving_of_due h.state h.room h.wf hd, if_neg hbit,
    if_neg (hbit ·.1), if_neg (hbit ·.1)]
  exact ⟨rfl, hdiv ▸ h.pos, hnext, h.room, Rx.wf_bufferWith h.wf s, h.holds_bufferWith hs, hdiv ▸ h.ne_zero⟩

/-- The sample of a byte's last bit: a byte that is not 0 is counted, and a zero byte or the last of the capacity ends the frame
(41_receiver.md R150). -/
theorem Rx.Recording.step_ends_byte (h : q.Recording cap bytes p) (hd : due now q.systimeNextSample = true)
    (hs : s = (bytes.getD (p / 8) 0).getLsbD (p % 8)) (h7 : p % 8 = 7) :
    (Rx.step cap q now s).Recording cap bytes (p + 1) ∨ (Rx.step cap q now s).Recorded cap bytes := by
  have hpos := h.pos
  have hholds := h.holds_bufferWith hs
  have hbyte : (q.bufferWith s).read q.bitBufferPos.toNat = bytes.getD (p / 8) 0 := by
    rw [hpos]
    exact hholds.read (by omega)
  have hbit : q.bitBufferBit.toNat = 7 := by rwa [h.bit]
  rw [Rx.step_receiving _ _ _ _ h.state, Rx.stepReceiving_of_due h.state h.room h.wf hd, hbyte, if_pos hbit]
  by_cases h0 : bytes.getD (p / 8) 0 = 0x00
  · rw [if_pos ⟨hbit, .inl h0⟩, if_neg (·.2 h0)]
    exact .inr (Rx.recorded_of_holds rfl (hholds.mono (p' := 8 * q.bitBufferPos.toNat) (by omega)) (hpos ▸ h.ne_zero)
      h.room.le (.inr (hpos ▸ h0)))
  · have hsucc : (q.bitBufferPos + 1).toNat = (p + 1) / 8 := by
      rw [toNat_pos_succ h.room]
      omega
    have hne : ∀ j < (p + 1) / 8, bytes.getD j 0 ≠ 0x00 := by
      intro j hj
      rcases Nat.lt_or_ge j (p / 8) with hj' | hj'
      · exact h.ne_zero j hj'
      · rwa [show j = p / 8 by omega]
    by_cases hfull : q.bitBufferPos.toNat + 1 = cap.toNat
    · rw [if_pos ⟨hbit, .inr hfull⟩, if_pos ⟨hbit, h0⟩]
      have hcap := (toNat_pos_succ h.room).trans hfull
      exact .inr (Rx.recorded_of_holds rfl (hholds.mono (p' := 8 * (q.bitBufferPos + 1).toNat) (by omega)) (hsucc ▸ hne)
        hcap.le (.inl hcap))
    · rw [if_neg (not_and_of_not_right _ (not_or.2 ⟨h0, hfull⟩)), if_pos ⟨hbit, h0⟩]
      have hroom : (q.bitBufferPos + 1).toNat < cap.toNat := by
        have := h.room
        rw [toNat_pos_succ h.room]
        omega
      have hzero : (0 : BitVec 3).toNat = (p + 1) % 8 := by
        show 0 = _
        omega
      exact .inl ⟨rfl, hsucc, hzero, hroom, Rx.wf_bufferWith h.wf s, hholds, hne⟩

/-- One more sample of the payload: one more bit recorded, or the frame ended. -/
theorem Rx.Recording.step (h : q.Recording cap bytes p) (hd : due now q.systimeNextSample = true)
    (hs : s = (bytes.getD (p / 8) 0).getLsbD (p % 8)) :
    (Rx.step cap q now s).Recording cap bytes (p + 1) ∨ (Rx.step cap q now s).Recorded cap bytes := by
  by_cases h7 : p % 8 = 7
  · exact h.step_ends_byte hd hs h7
  · exact .inl (h.step_within_byte hd hs h7)

/-- A sample of the payload advances the schedule. -/
theorem Rx.Recording.step_scheduled {T g : Nat} {n : Tick} (h : q.Recording cap bytes p) (hs : q.Scheduled now T g)
    (hd : due n q.systimeNextSample = true) : (Rx.step cap q n s).Scheduled now T (g + T) := by
  rw [Rx.step_receiving _ _ _ _ h.state, Rx.stepReceiving_of_due h.state h.room h.wf hd]
  exact hs.advance rfl rfl

/-- The bytes are at an end with the zero byte after the last, so no more bits than these are recorded. -/
theorem Rx.Recording.lt (h : q.Recording cap bytes p) : p < 8 * bytes.length + 8 := by
  by_contra hp
  exact h.ne_zero bytes.length (by omega) (List.getD_eq_default _ _ le_rfl)

end Recording

/-! ### The transfer -/

section Transfer
variable {cap : Idx} {now : Tick} {lv : Nat → Level} {bytes : List Byte} {T k : Nat} (hT : 1 ≤ T) (hT' : 12 * T < 2 ^ 31)
  (hlv : ∀ i, lv i = lineLevel bytes (i / T))
include hT hT' hlv

/-- Preamble and the first high level of Sync: the exit from ClockSync, with a period of `T` and the first sample at hand. -/
theorem Rx.run_exit_wave :
    (Rx.run cap now lv Rx.reset (midTick T 9 + 2)).Awaiting now T (midTick T 9 + 1) 0xFF := by
  have hpreamble : ∀ i ≤ 8 * T, lv i = (i / T % 2 == 0) := by
    intro i hi
    rw [hlv, lineLevel_alternates ((Nat.div_lt_iff_lt_mul hT).2 (by omega))]
  have hsync := Rx.run_afterIntervals (cap := cap) (now := now) (r := Rx.reset) rfl rfl hT (by omega) hpreamble
  have havg := Rx.toNat_avg_afterIntervals (r := Rx.reset) (now := now) (show 4 ≤ 8 by decide) (show T < 2 ^ 32 by omega)
  have hexit := Rx.run_exit (d := T + T / 2) hsync rfl rfl
    (by rw [Rx.toNat_numPulses_afterIntervals] <;> decide) (by rw [havg]) (by omega) fun j hj hj' => by
    rw [hlv, lineLevel_high hT (by omega) (by omega)]
    rfl
  rw [show midTick T 9 + 2 = 8 * T + 1 + (T + T / 2) + 1 by simp only [midTick]; omega, hexit]
  refine ⟨rfl, ⟨rfl, ?_⟩, rfl, rfl⟩
  show addW (tickAt now (8 * T + 1 + T)) (BitVec.ofNat 32 T / 2) = _
  rw [ofNat_half (by omega), addW_tickAt_ofNat, midTick]
  congr 1
  omega

/-- The high levels of Sync leave the frame register at its preload (41_receiver.md R157). -/
theorem Rx.run_sync_high :
    (Rx.run cap now lv Rx.reset (midTick T 11 + 1)).Awaiting now T (sampleInstant T 12) 0xFF := by
  have hhigh {i : Nat} (hi : 8 * T ≤ i) (hi' : i < 12 * T) : shiftIn 0xFF (lv i) = 0xFF := by
    rw [hlv, lineLevel_high hT hi hi']
    decide
  have hnext {k t g : Nat} (h : (Rx.run cap now lv Rx.reset k).Awaiting now T g 0xFF) (hkt : k ≤ t) (ht : t < g ∨ t = k)
      (hgt : g ≤ t + 1) (hlo : 8 * T ≤ t) (hhi : t < 12 * T) (hg : t + 1 ≤ g + 2) :
      (Rx.run cap now lv Rx.reset (t + 1)).Awaiting now T (g + T) 0xFF := by
    have hs := Rx.run_shift h hkt ht hgt (by omega) (by omega) (by rw [hhigh hlo hhi]; decide)
    rwa [hhigh hlo hhi] at hs
  have h9 : midTick T 9 = 9 * T + T / 2 := rfl
  have h10 : midTick T 10 = 10 * T + T / 2 := rfl
  have h11 : midTick T 11 = 11 * T + T / 2 := rfl
  have hfirst := hnext (t := midTick T 9 + 2) (Rx.run_exit_wave (cap := cap) (now := now) hT hT' hlv)
    le_rfl (.inr rfl) (by omega) (by omega) (by omega) (by omega)
  rcases hT.eq_or_lt with rfl | hT2
  · exact hfirst
  · have hsecond := hnext (t := max (midTick T 9 + 3) (midTick T 10)) hfirst
      (by omega) (by omega) (by omega) (by omega) (by omega) (by omega)
    have hthird := hnext (t := midTick T 11) hsecond (by omega) (by omega) (by omega) (by omega) (by omega) (by omega)
    rwa [show midTick T 9 + 1 + T + T + T = sampleInstant T 12 by
      simp only [sampleInstant_of_two_le hT2, midTick]; omega] at hthird

/-- The sample of the next level, shifted in. -/
theorem Rx.run_shift_next {f : Byte}
    (h : (Rx.run cap now lv Rx.reset (midTick T k + 1)).Awaiting now T (sampleInstant T (k + 1)) f)
    (hm : shiftIn f (lineLevel bytes (k + 1)) ≠ 0x0F) :
    (Rx.run cap now lv Rx.reset (midTick T (k + 1) + 1)).Awaiting now T (sampleInstant T (k + 2))
      (shiftIn f (lineLevel bytes (k + 1))) := by
  obtain ⟨he, hd⟩ := Rx.run_to_next_sample hT (by omega) rfl (.inl h.state) h.sched
  rw [he, hlv, midTick_div hT, sampleInstant_succ hT (Nat.succ_pos k)]
  exact h.shift hd hm

/-- The four low levels of Sync complete the sentinel, and the payload begins (41_receiver.md R148, R157). -/
theorem Rx.run_sync_low (hcap : 1 ≤ cap.toNat) :
    (Rx.run cap now lv Rx.reset (midTick T 15 + 1)).Recording cap bytes 0 ∧
      (Rx.run cap now lv Rx.reset (midTick T 15 + 1)).Scheduled now T (sampleInstant T 16) := by
  have hlow {k : Nat} (h : 12 ≤ k) (h' : k < 16) : lineLevel bytes k = false := lineLevel_low h h'
  have h11 := Rx.run_sync_high (cap := cap) (now := now) hT hT' hlv
  have h12 := Rx.run_shift_next hT hT' hlv h11 (by rw [hlow] <;> decide)
  have h13 := Rx.run_shift_next hT hT' hlv h12 (by rw [hlow, hlow] <;> decide)
  have h14 := Rx.run_shift_next hT hT' hlv h13 (by rw [hlow, hlow, hlow] <;> decide)
  obtain ⟨he, hd⟩ := Rx.run_to_next_sample hT (by omega) rfl (.inl h14.state) h14.sched
  rw [he, sampleInstant_succ hT (by decide), hlv, midTick_div hT]
  exact h14.step_matches hd (by rw [hlow, hlow, hlow, hlow] <;> decide) hcap

/-- The payload, `p` samples in: `p` bits recorded, or the frame ended. -/
theorem Rx.run_payload (hcap : 1 ≤ cap.toNat) (p : Nat) :
    ((Rx.run cap now lv Rx.reset (midTick T (15 + p) + 1)).Recording cap bytes p ∧
      (Rx.run cap now lv Rx.reset (midTick T (15 + p) + 1)).Scheduled now T (sampleInstant T (15 + p + 1))) ∨
    (Rx.run cap now lv Rx.reset (midTick T (15 + p) + 1)).Recorded cap bytes := by
  induction p with
  | zero => exact .inl (Rx.run_sync_low hT hT' hlv hcap)
  | succ p ih =>
    obtain ⟨hrec, hsched⟩ | hdone := ih
    · obtain ⟨he, hd⟩ := Rx.run_to_next_sample hT (by omega) rfl (.inr hrec.state) hsched
      have hlevel : lv (midTick T (15 + p + 1)) = (bytes.getD (p / 8) 0).getLsbD (p % 8) := by
        rw [hlv, midTick_div hT, ← lineLevel_payload]
        congr 1
        omega
      rw [← Nat.add_assoc, he, sampleInstant_succ hT (Nat.succ_pos _)]
      exact (hrec.step hd hlevel).imp_left fun h => ⟨h, hrec.step_scheduled hsched hd⟩
    · rw [← Nat.add_assoc, midTick_succ, Nat.add_right_comm, Rx.run_complete rfl hdone.state]
      exact .inr hdone

/-- A freshly initialised receiver on a line that shows the line format, each level held `T` ticks, has recorded the payload by the
middle of the eighth level after it (70_reset_and_hazards.md R256). -/
theorem Rx.run_recorded (hcap : 1 ≤ cap.toNat) (hk : midTick T (8 * bytes.length + 23) + 1 ≤ k) :
    (Rx.run cap now lv Rx.reset k).Recorded cap bytes := by
  have hend : (Rx.run cap now lv Rx.reset (midTick T (8 * bytes.length + 23) + 1)).Recorded cap bytes := by
    rw [show 8 * bytes.length + 23 = 15 + (8 * bytes.length + 8) by omega]
    obtain ⟨hrec, -⟩ | hdone := Rx.run_payload (cap := cap) (now := now) hT hT' hlv hcap (8 * bytes.length + 8)
    · exact absurd hrec.lt (lt_irrefl _)
    · exact hdone
  obtain ⟨d, rfl⟩ := Nat.exists_eq_add_of_le hk
  rwa [Rx.run_complete rfl hend.state]

end Transfer

/-- In loopback the first TICK of a session samples the line as TX_START found it. -/
theorem State.levelAt_zero_of_loopback {s : State} (h : s.params.loopback = true) (ls : List Level) :
    s.levelAt ls 0 = s.tx.txOut := State.levelAt_of_loopback h ls 0

/-- In loopback every later TICK of a session samples the level that the TICK before it wrote (42_host_and_control.md R181). -/
theorem State.levelAt_succ_of_session {s : State} {t : Tx} (h : s.params.loopback = true) (ht : s.tx = t.start) (ls : List Level)
    (i : Nat) : s.levelAt ls (1 + i) = lineLevel (t.stage.bytes t.stageLen.toNat) i := by
  rw [State.levelAt_of_loopback h, ht, Nat.add_comm, Function.iterate_succ_apply']
  exact (t.sessionAt_iterate_tick i).txOut_tick

/-- A freshly initialised receiver waits as long as the line is low. -/
theorem Rx.step_reset_of_low (cap : Idx) (now : Tick) : Rx.step cap Rx.reset now false = Rx.reset := rfl

/-- A control edge under the default CTRL_MAP starts a session and initialises the receiver (00_scope.md R14). -/
theorem exec_ctrlRise_default {s : State} (h : s.params.onRise = [.txStart, .rxInit]) :
    exec .ctrlRise s = .next ((s.withTx s.tx.start).withRx Rx.reset) := by
  rw [exec_ctrlRise, h]
  rfl

/-- Settles O39: in loopback the receiver samples the line format one TICK late, at a period of one tick. -/
theorem loopbackTransferRecordsThePayload : Obligations.LoopbackTransferRecordsThePayload := by
  intro s ls hl hmap hlegal hlow hlen
  have hmax := s.tx.stageLen.isLt
  have hfirst : Rx.run s.params.rxCap s.now (((s.withTx s.tx.start).withRx Rx.reset).levelAt ls) Rx.reset 1 = Rx.reset := by
    rw [Rx.run_succ rfl, State.levelAt_zero_of_loopback (by exact hl)]
    show Rx.step _ Rx.reset _ s.tx.txOut = Rx.reset
    rw [hlow, Rx.step_reset_of_low]
  have hline (i : Nat) : ((s.withTx s.tx.start).withRx Rx.reset).levelAt ls (1 + i) =
      lineLevel (s.tx.stage.bytes s.tx.stageLen.toNat) (i / 1) := by
    rw [Nat.div_one]
    exact State.levelAt_succ_of_session (by exact hl) rfl ls i
  obtain ⟨k, hk⟩ : ∃ k, ls.length = 1 + k := ⟨ls.length - 1, by omega⟩
  have hrec := Rx.run_recorded (cap := s.params.rxCap) (now := tickAt s.now 1) (k := k) le_rfl (by decide) hline hlegal.1 (by
    rw [Mem.length_bytes, midTick]
    omega)
  refine ⟨_, (execAll_cons_of_next (exec_ctrlRise_default hmap) _).trans (execAll_ticks _ _), ?_⟩
  rw [foldl_tick_rx, hk, Rx.run_add, State.withRx_params, State.withTx_params, State.withRx_now, State.withTx_now,
    State.withRx_rx, hfirst]
  exact ⟨hrec.state, hrec.bytes⟩

/-- A low line after a wave adds nothing to a wave read as 0 after its end. -/
theorem getD_append_replicate_false (ls : List Level) (m k : Nat) :
    (ls ++ List.replicate m false).getD k false = ls.getD k false := by
  induction m with
  | zero => rw [List.replicate_zero, List.append_nil]
  | succ m ih => rw [List.replicate_succ', ← List.append_assoc, getD_append_false, ih]

/-- Settles O40: the wave shows the line format, each level held `T` ticks, and the low line after it is the format's own. -/
theorem twoBoardTransferRecordsThePayload : Obligations.TwoBoardTransferRecordsThePayload := by
  intro s bytes T m hl hlegal hT hbound hlen
  obtain ⟨hwave, hformat⟩ := lineFormatReadAsBytesIsPreambleSyncPayload bytes
  have hline (i : Nat) : (s.withRx Rx.reset).levelAt (stretch T (wave bytes) ++ List.replicate m false) i =
      lineLevel bytes (i / T) := by
    rw [State.levelAt_of_not_loopback (by exact hl), getD_append_replicate_false, getD_stretch hT, hformat]
  have hhorizon : 12 * T < 2 ^ 31 := lt_of_le_of_lt (Nat.mul_le_mul_right T (by omega)) hbound
  have hrec := Rx.run_recorded (cap := s.params.rxCap) (now := s.now) hT hhorizon hline hlegal.1 hlen
  refine ⟨_, (execAll_cons_of_next (exec_rxInit s) _).trans (execAll_ticks _ _), ?_⟩
  rw [foldl_tick_rx, List.length_append, length_stretch, hwave, List.length_replicate, Nat.add_comm 17]
  exact ⟨hrec.state, hrec.bytes⟩

end Sys2Proof.Machine
end

section
/-! Proofs of the statements on TICK, the rising control edge and the host's accesses (42_host_and_control.md R180 to R182, R184, R185,
R187, R188), and on the two-board link (60_exceptions.md R222). -/

namespace Sys2Proof.Machine

/-! ### The link -/

/-- A word is taken by what it decodes to. -/
theorem takeWord_congr {w w' : Word} (h : decode w = decode w') (s : State) : takeWord w s = takeWord w' s := by
  simp only [takeWord, h]

/-- No step writes the parameters (10_state.md R46). -/
theorem step_params {s s' : State} (h : step s = .next s') : s'.params = s.params := by
  obtain ⟨-, rfl⟩ | ⟨w, rest, -, ⟨c, -, rfl⟩ | ⟨i, -, hi⟩⟩ := step_cases h
  · rfl
  · exact State.recordRefusal_params _ c
  · exact (exec_params hi).trans rfl

section Wired
variable {s : State} {w : Word} {rest : List Word}

/-- Nothing waits, so the wire has no TICK to write to. -/
theorem State.wired_of_nil (h : s.events = []) (l : Level) : s.wired l = s := by simp only [State.wired, h]

/-- A step with the line's level takes the first waiting word as the wire leaves it, from the same state. -/
theorem step_wired_of_cons (h : s.events = w :: rest) (l : Level) :
    step (s.wired l) = takeWord (wireLevel l w) (s.beginEvent rest) := by
  simp only [State.wired, h]
  exact step_of_cons rfl

/-- A waiting TICK runs at the line's level, whatever level its word holds. -/
theorem step_wired_of_tick {l' : Level} (h : s.events = encode (.tick l') :: rest) (l : Level) :
    step (s.wired l) = .next ((s.beginEvent rest).tick l) := by
  rw [step_wired_of_cons h, wireLevel_encode_tick, takeWord_of_event (decodeOfEncodeGivesTheEventBack _), exec_tick, settle_next]

/-- With no TICK first in the queue the wire changes nothing of the step. -/
theorem step_wired_of_not_tick
    (h : s.events = [] ∨ ∃ w rest, s.events = w :: rest ∧ ∀ l, decode w ≠ .event (.tick l)) (l : Level) :
    step (s.wired l) = step s := by
  obtain hs | ⟨w, rest, hs, hw⟩ := h
  · rw [State.wired_of_nil hs]
  · rw [step_wired_of_cons hs, step_of_cons hs, takeWord_congr (decode_wireLevel hw l)]

end Wired

section LinkStep
variable {k k' : Link} {who : Board}

theorem Link.step_a_of_next {a' : State} (h : Machine.step k.a = .next a') : k.step .a = .next { k with a := a' } := by
  simp only [Link.step, h]

theorem Link.step_b_of_next {b' : State} (h : Machine.step (k.b.wired k.a.tx.txOut) = .next b') :
    k.step .b = .next { k with b := b' } := by
  simp only [Link.step, h]

/-- An event of one board leaves the other board's state, and B stays out of loopback, since no event writes the parameters. -/
theorem Link.step_frame (h : k.step who = .next k') :
    (who = .a → k'.b = k.b) ∧ (who = .b → k'.a = k.a) ∧ (k.Legal → k'.Legal) := by
  obtain ⟨rfl, a', -, rfl⟩ | ⟨rfl, b', hb, rfl⟩ := Link.step_cases h
  · exact ⟨fun _ => rfl, nofun, id⟩
  · have hp : b'.params = k.b.params := (step_params hb).trans (State.wired_params _ _)
    exact ⟨nofun, fun _ => rfl, fun hk => (congrArg Params.loopback hp).trans hk⟩

end LinkStep

/-- Settles O41: B's TICK runs at the wired level, every other event of either board is its step, and both touch their board alone. -/
theorem linkTickOfBSamplesTheOutputOfA : Obligations.LinkTickOfBSamplesTheOutputOfA := by
  refine ⟨fun who k k' => Link.step_frame, fun k l rest hk hs => ?_, fun k h => ?_, fun k => ?_⟩
  · refine ⟨_, exec_tick _ _, Link.step_b_of_next (step_wired_of_tick hs _), ?_⟩
    have hline : (k.b.beginEvent rest).lineIn k.a.tx.txOut = k.a.tx.txOut := by
      rw [State.lineIn_eq_sample, show (k.b.beginEvent rest).params.loopback = false from hk, sample_of_not_loopback]
    exact ((k.b.beginEvent rest).rx_tick k.a.tx.txOut).trans (congrArg (Rx.step _ _ _) hline)
  · obtain ⟨b', hb⟩ := everyStepAnswersANextState k.b
    exact ⟨b', hb, Link.step_b_of_next ((step_wired_of_not_tick h _).trans hb)⟩
  · obtain ⟨a', ha⟩ := everyStepAnswersANextState k.a
    exact ⟨a', ha, Link.step_a_of_next ha⟩

/-! ### TICK and the rising control edge -/

/-- Settles O42: the three parts of a tick, its counter and its level as the statement writes them. -/
theorem tickStepsCounterThenReceiverThenTransmitter : Obligations.TickStepsCounterThenReceiverThenTransmitter := by
  intro s l
  rw [exec_tick, s.ofNat_nextNow, s.lineIn_eq_sample]
  rfl

/-- Settles O44: the edge runs its CTRL_MAP sequence, which by default is TX_START, then RX_INIT. -/
theorem ctrlRisePerformsTheMappedSequence : Obligations.CtrlRisePerformsTheMappedSequence := by
  intro s
  refine ⟨?_, ⟨_, exec_ctrlRise s⟩, exec_ctrlRise_default⟩
  rw [exec_ctrlRise, execAll_map_toEvent]

/-! ### The host's accesses -/

/-- Settles O46: read after write in a canonical staging buffer. -/
theorem wrStageWritesOneStagedByte : Obligations.WrStageWritesOneStagedByte := by
  intro s idx data hwf
  refine ⟨fun hlt => ⟨_, exec_wrStage_of_lt s hlt data, ?_, fun a ha => ?_, rfl⟩, fun hle => exec_wrStage_of_le s hle data⟩
  · exact Mem.read_write_same hwf idx.toNat data
  · exact Mem.read_write_other s.tx.stage ha data

/-- Settles O47: the two sides of the length check. -/
theorem wrStageLenSetsTheStagedLength : Obligations.WrStageLenSetsTheStagedLength :=
  fun s _ => ⟨exec_wrStageLen_of_le s, exec_wrStageLen_of_lt s⟩

/-- Settles O51: the byte read is zero-extended, on both sides of the index check. -/
theorem rdRxbufReturnsTheCurrentByte : Obligations.RdRxbufReturnsTheCurrentByte :=
  fun s _ => ⟨fun hlt => ⟨_, toNat_zext32 (by decide) _, exec_rdRxbuf_of_lt s hlt⟩, exec_rdRxbuf_of_le s⟩

/-- Settles O52: the byte read is zero-extended, on both sides of the index check. -/
theorem rdStageReturnsTheStagedByte : Obligations.RdStageReturnsTheStagedByte :=
  fun s _ => ⟨fun hlt => ⟨_, toNat_zext32 (by decide) _, exec_rdStage_of_lt s hlt⟩, exec_rdStage_of_le s⟩

end Sys2Proof.Machine
end

section
/-! Proof of the statement on a step with no event waiting (60_exceptions.md R225). -/

namespace Sys2Proof.Machine

/-- Settles O9: `takeNextEvent` answers an empty queue with the state it was given. -/
theorem stepWithoutEventHoldsTheState : Obligations.StepWithoutEventHoldsTheState :=
  fun _ => step_of_nil

end Sys2Proof.Machine
end

section
/-! Proofs of the statements on reset and power-on (70_reset_and_hazards.md R240, R241). -/

namespace Sys2Proof.Machine

/-- Every field of STATUS comes from one of the two halves, and each of these fields is 0 in a reset half (10_state.md R44). -/
theorem State.status_eq_zero_of_reset {s : State} (htx : s.tx = Tx.reset) (hrx : s.rx = Rx.reset) : s.status = 0 := by
  rw [State.status, htx, hrx]
  decide

/-- A reset transmitter holds no byte, staged or in its session. -/
theorem Tx.read_reset (k : Nat) : Tx.reset.stage.read k = 0x00 ∧ Tx.reset.payload.read k = 0x00 :=
  ⟨Mem.read_nil k, Mem.read_nil k⟩

/-- Settles O54: SYS_RESET resets both halves, and RX_INIT leaves the same receiver. -/
theorem sysResetGivesEveryElementItsResetValue : Obligations.SysResetGivesEveryElementItsResetValue := fun s =>
  ⟨_, _, exec_sysReset s, exec_rxInit s, rfl, rfl, Tx.read_reset, rfl, rfl, rfl, rfl, rfl, rfl, rfl,
    State.status_eq_zero_of_reset rfl rfl⟩

/-- Settles O55: both states have the counter 0 and both halves reset. -/
theorem powerOnStateIsTheSysResetState : Obligations.PowerOnStateIsTheSysResetState :=
  ⟨exec_sysReset, rfl, rfl, rfl⟩

end Sys2Proof.Machine
end
